-- ==== Sys2Proof/Word.lean ====
section
/-! DEFINITION. The word of the FXU: 32 bits, two's complement (00_scope.md R6, R10). -/

namespace Sys2Proof

/-- A 32-bit word: every operand, result and command word (R6). `BitVec.toInt` is its value as the
signed integer of R10, `BitVec.toNat` its value as an unsigned field (R13). -/
abbrev Word := BitVec 32

end Sys2Proof
end

