-- ==== Sys2Proof/Syntax.lean ====
section
/-! DEFINITION. The instructions of the FXU: its eleven commands, in the order of the opcode map
(30_encoding.md R51). -/

namespace Sys2Proof

/-- One constructor per row of spec/opcode_table.json. No command has an operand field: the operands are OPA and
OPB at the time of the CMD write (R49, R54). -/
inductive Instr where
  | intToFp       -- INT_TO_FP
  | fpToInt       -- FP_TO_INT
  | fpToIntRound  -- FP_TO_INT_ROUND
  | addFp         -- ADD_FP
  | addMixed      -- ADD_MIXED
  | subFp         -- SUB_FP
  | subMixed      -- SUB_MIXED
  | multFp        -- MULT_FP
  | multMixed     -- MULT_MIXED
  | divFp         -- DIV_FP
  | divMixed      -- DIV_MIXED
deriving DecidableEq, Repr

/-- The unary operations, which ignore operand B (30_encoding.md R53). -/
def Instr.unary : Instr → Bool
  | .intToFp | .fpToInt | .fpToIntRound => true
  | .addFp | .addMixed | .subFp | .subMixed | .multFp | .multMixed | .divFp | .divMixed => false

/-- The two divisions, the only operations that can raise DivideByZero (60_exceptions.md R82). -/
def Instr.divides : Instr → Bool
  | .divFp | .divMixed => true
  | .intToFp | .fpToInt | .fpToIntRound | .addFp | .addMixed | .subFp | .subMixed | .multFp | .multMixed => false

end Sys2Proof
end

