-- ==== Sys2Proof/Decode.lean ====
section
/-! DEFINITION. Decoding of the 32-bit command word (30_encoding.md R49 to R58), and the encoder. -/

namespace Sys2Proof

/-- Why a command word is illegal, by name: its RSVD field is not 0 (R56), or its OP value is reserved (R55). -/
inductive IllegalWord where
  | reservedField
  | reservedOp
deriving DecidableEq, Repr

/-- The outcome of decoding: one of the eleven operations, or ILLEGAL with its reason (R57, R58). -/
inductive Decoded where
  | legal (i : Instr)
  | illegal (why : IllegalWord)
deriving DecidableEq, Repr

/-- The OP field, c[3:0] (R50). -/
def opField (c : Word) : BitVec 4 := c.extractLsb' 0 4

/-- The RSVD field, c[31:4] (R50). -/
def rsvdField (c : Word) : BitVec 28 := c.extractLsb' 4 28

/-- The operation of an OP value, or ILLEGAL for the reserved values 0xB to 0xF (R51, R55). -/
def decodeOp (op : BitVec 4) : Decoded :=
  match op.toNat with
  | 0x0 => .legal .intToFp
  | 0x1 => .legal .fpToInt
  | 0x2 => .legal .fpToIntRound
  | 0x3 => .legal .addFp
  | 0x4 => .legal .addMixed
  | 0x5 => .legal .subFp
  | 0x6 => .legal .subMixed
  | 0x7 => .legal .multFp
  | 0x8 => .legal .multMixed
  | 0x9 => .legal .divFp
  | 0xA => .legal .divMixed
  | _ => .illegal .reservedOp

/-- `decode(c)` of R58: total on 32-bit words. -/
def decode (c : Word) : Decoded :=
  if rsvdField c ≠ 0#28 then .illegal .reservedField else decodeOp (opField c)

/-- The OP value of an operation (R51). -/
def opValue : Instr → BitVec 4
  | .intToFp => 0x0#4
  | .fpToInt => 0x1#4
  | .fpToIntRound => 0x2#4
  | .addFp => 0x3#4
  | .addMixed => 0x4#4
  | .subFp => 0x5#4
  | .subMixed => 0x6#4
  | .multFp => 0x7#4
  | .multMixed => 0x8#4
  | .divFp => 0x9#4
  | .divMixed => 0xA#4

/-- The command word of an operation: `{28'b0, OP}` (R50, R51). -/
def encode (i : Instr) : Word := 0#28 ++ opValue i

/-- The instruction the decoder reads from a word of `nbits` bits numbered as spec/opcode_table.json numbers them:
the bits above `nbits` are 0, and a word that does not fit the one 32-bit format is no command (R49). -/
def decodeTableWord (nbits w : Nat) : Option Instr :=
  let v := w % 2 ^ nbits
  if v < 2 ^ 32 then
    match decode (BitVec.ofNat 32 v) with
    | .legal i => some i
    | .illegal _ => none
  else none

end Sys2Proof
end

