-- ==== Sys2Proof/Machine/Bus.lean ====
section
/-! DEFINITION. The register interface as the hosts see it: accesses, resets and answers
(00_scope.md R16, 20_memory.md R36 to R39, 60_exceptions.md R84, 70_reset_and_hazards.md R97 to R99). -/

namespace Sys2Proof.Machine

/-- The five registers of the window, at offsets 0x00, 0x04, 0x08, 0x0C and 0x10 (R36). -/
inductive WindowReg where
  | opa | opb | cmd | res | status
deriving DecidableEq, Repr

/-- What an access does (R16): `MemRead` or `MemWrite` of a 32-bit value. -/
inductive AccessOp where
  | read
  | write (v : Word)
deriving DecidableEq, Repr

/-- What the program of the accessing host does when it gets a bus error: "whether the host traps on it
is the host's" (R84). DESIGN CHOICE, log 3. -/
inductive HostReaction where
  | stops   -- the host program is faulted and the run ends
  | goesOn  -- the host program continues with its next access
deriving DecidableEq, Repr

/-- One host access to a byte address (R16, R38). Every width is representable, so that a malformed
access is an access too (R39). -/
structure Access where
  host : Nat
  addr : Nat
  width : Nat
  op : AccessOp
  onError : HostReaction
deriving DecidableEq, Repr

/-- What the outside can do to the FXU in one step: an access, or a reset, which may cut an access in
progress (R97, R99). -/
inductive BusEvent where
  | access (a : Access)
  | reset (cut : Option Access)
deriving DecidableEq, Repr

/-- What the FXU answers to one access: the word read, the acknowledgement of a write, or the bus error
response of R84. -/
inductive Reply where
  | data (v : Word)
  | done
  | busError
deriving DecidableEq, Repr

/-- An answer and the host it went to. -/
structure Response where
  host : Nat
  reply : Reply
deriving DecidableEq, Repr

end Sys2Proof.Machine
end

