-- ==== Sys2Proof/Config.lean ====
section
/-! DEFINITION. The constants of the FXU (00_scope.md R7), the parameters its platform fixes (R9), and the one
free value (70_reset_and_hazards.md R99). -/

namespace Sys2Proof

/-- The scale constant F = 2^14 = 16384 (R7), as an exact integer. -/
abbrev Config.scale : Int := 16384

/-- Half the scale, F/2 = 8192, the rounding offset of 40_conversion.md R65 (R7). -/
abbrev Config.halfScale : Int := 8192

/-- The size of the register window in bytes (20_memory.md R35). -/
abbrev Config.windowSize : Nat := 32

/-- The parameters of the platform that the model takes as data (R9): where the window lies, in units of 32
bytes, so that `FXP_BASE` is a multiple of 32 by its form (R35), and `FXP_HOSTS`. -/
structure Platform where
  window : Nat
  hosts : Nat
deriving DecidableEq, Repr

/-- `FXP_BASE`, the byte address of the register window (R9, R35). -/
abbrev Platform.base (p : Platform) : Nat := Config.windowSize * p.window

/-- FREE VALUE. What the host of an access that reset cuts gets as its answer, `none` where the access is never
acknowledged: "whether the interrupted access is acknowledged to the host, and with what response, is the
parameter `FXP_BUS_PROTOCOL`" (R99). The argument is the counter `cuts` of State. DESIGN CHOICE, log 6. -/
opaque Config.cutReply : Nat → Option Machine.Reply

end Sys2Proof
end

