-- ==== Sys2Proof/Machine/Arith.lean ====
section
/-! DEFINITION. The arithmetic primitives of the pseudocode (00_scope.md R13 to R15). Arithmetic is on mathematical
integers; every reduction to a width is written with `wrap32`. -/

namespace Sys2Proof.Machine

/-- `wrap32(v)`: the word whose signed value is congruent to v modulo 2^32 (R14). -/
def wrap32 (v : Int) : Word := BitVec.ofInt 32 v

/-- `sext_64(v)`: the same integer as a 64-bit pattern (R14). -/
def sext64 (v : Word) : BitVec 64 := v.signExtend 64

/-- `tdiv(p, q)`: division that rounds toward zero (R15). -/
def tdiv (p q : Int) : Int := p.tdiv q

/-- The plain integer of operand B promoted to fixed-point, at 32 bits with wraparound (41_addsub.md R67). -/
def promote (n : Word) : Word := wrap32 (n.toInt * Config.scale)

/-- v is in `i32` (R13). -/
def inI32 (v : Int) : Bool := -2147483648 ≤ v ∧ v ≤ 2147483647

end Sys2Proof.Machine
end

