-- ==== Sys2Proof/Machine/State.lean ====
section
/-! DEFINITION. The state of the machine: the 98 bits of 10_state.md R20, the platform's parameters
(00_scope.md R9), and the host's side of the bus (log 1, 2 and 6). -/

namespace Sys2Proof.Machine

/-- The state. `opa`, `opb`, `res`, `dz` and `ill` are the architectural state of the FXU, all of it (R20).
`platform` holds the parameters R9, which no step changes. `pending` is the total order of accesses and resets
still to come (R44), `responses` what the FXU has answered, oldest first, and `cuts` the counter of the free
value `Config.cutReply`. -/
structure State where
  opa : Word
  opb : Word
  res : Word
  dz : Bool
  ill : Bool
  platform : Platform
  pending : List BusEvent
  responses : List Response
  cuts : Nat
deriving DecidableEq, Repr

/-- The reasons a run stops. -/
inductive Fault where
  /-- Raised by an access in the window that is not one of the admitted accesses of R38, when its host stops on
  the bus error response (R84: "a model treats it as a fault of the host program"). SAFE: the run ends where
  the FXU, unchanged, would serve the next access. -/
  | busError
deriving DecidableEq, Repr

/-- The reasons an instruction is refused. -/
inductive Refusal where
  /-- Raised by an arm of `exec` whose instruction has no meaning yet. No arm raises it. SAFE. -/
  | notModelled (mnemonic : String)
deriving DecidableEq, Repr

/-- The outcome of a step of this machine. -/
abbrev Outcome := Host.Outcome State Fault Refusal

/-- The faults that a command records in STATUS (60_exceptions.md R82, R83). -/
inductive CommandFault where
  | divideByZero
  | illegalCommand
deriving DecidableEq, Repr

/-- The state right after reset: every register and both STATUS bits 0 (R33, R98). The platform's parameters and
the host's side of the bus are the model's choice (log 1, 2, 5 and 6). -/
def State.reset : State where
  opa := 0x00000000#32
  opb := 0x00000000#32
  res := 0x00000000#32
  dz := false
  ill := false
  platform := { window := 0, hosts := 1 }
  pending := []
  responses := []
  cuts := 0

end Sys2Proof.Machine
end

