-- ==== Sys2Proof/Machine/Operands.lean ====
section
/-! DEFINITION. The operands of a command (30_encoding.md R49, R52 to R54): operand A is OPA and operand B is OPB at the
time of the CMD write, both the full 32-bit words, neither extended, scaled nor shifted by the encoding. -/

namespace Sys2Proof.Machine

/-- Operand A (R22, R52). -/
def State.operandA (s : State) : Word := s.opa

/-- Operand B (R23, R52). -/
def State.operandB (s : State) : Word := s.opb

end Sys2Proof.Machine
end

