-- ==== Sys2Proof/Machine/Ops.lean ====
section
/-! DEFINITION. The shared operations over the registers and the window: writing the result, raising the three faults
of 60_exceptions.md, reset, answering a host, and address decoding (20_memory.md R35 to R39). -/

namespace Sys2Proof.Machine

/-- `RES <- y`, all that a command without a fault writes (R81). -/
def State.writeResult (y : Word) (s : State) : State := { s with res := y }

/-- Raising a fault of a command: its sticky STATUS bit is set and nothing else changes (R82, R83). No control is
transferred and nothing is saved (R88); there is no return from it (R89). -/
def State.raise (f : CommandFault) (s : State) : State :=
  match f with
  | .divideByZero => { s with dz := true }
  | .illegalCommand => { s with ill := true }

/-- The FXU answers host `h`. -/
def State.respond (h : Nat) (r : Reply) (s : State) : State :=
  { s with responses := s.responses ++ [{ host := h, reply := r }] }

/-- `raise BusError()`: the host gets the bus error response and the FXU is unchanged (R84). A host that stops on it
ends the run; a host that goes on is served its next access (log 3). -/
def raiseBusError (a : Access) (s : State) : Outcome :=
  match a.onError with
  | .stops => .fault .busError
  | .goesOn => .next (s.respond a.host .busError)

/-- Reset of the registers, whatever they held before (R98). -/
def State.resetRegisters (s : State) : State :=
  { s with opa := 0x00000000#32, opb := 0x00000000#32, res := 0x00000000#32, dz := false, ill := false }

/-- The offset in the window of a byte address, `none` where the FXU does not respond (R35). -/
def windowOffset (p : Platform) (addr : Nat) : Option Nat :=
  if p.base ≤ addr ∧ addr < p.base + Config.windowSize then some (addr - p.base) else none

/-- The register map (R36); the offsets 0x14 to 0x1F hold none (R37). -/
def registerAt (off : Nat) : Option WindowReg :=
  match off with
  | 0x00 => some .opa
  | 0x04 => some .opb
  | 0x08 => some .cmd
  | 0x0C => some .res
  | 0x10 => some .status
  | _ => none

/-- The register an access at an offset moves, `none` for an access that is not admitted: it must be 4 bytes wide and
word-aligned (R38, R39). `FXP_BASE` is a multiple of 32, so an address is aligned exactly when its offset is. -/
def selectRegister (off width : Nat) : Option WindowReg :=
  if width = 4 ∧ off % 4 = 0 then registerAt off else none

/-- The offset of a register (R36). -/
def WindowReg.offset : WindowReg → Nat
  | .opa => 0x00
  | .opb => 0x04
  | .cmd => 0x08
  | .res => 0x0C
  | .status => 0x10

end Sys2Proof.Machine
end

