-- ==== Sys2Proof/Machine/AddSub.lean ====
section
/-! DEFINITION. The adder/subtractor family: ADD_FP, ADD_MIXED, SUB_FP, SUB_MIXED (41_addsub.md). -/

namespace Sys2Proof.Machine

/-- ADD_FP(a, b) (R68). -/
def addFp (a b : Word) : Word := wrap32 (a.toInt + b.toInt)

/-- ADD_MIXED(a, b): the integer b is promoted first (R69). -/
def addMixed (a b : Word) : Word := wrap32 (a.toInt + (promote b).toInt)

/-- SUB_FP(a, b) (R70). -/
def subFp (a b : Word) : Word := wrap32 (a.toInt - b.toInt)

/-- SUB_MIXED(a, b): the integer b is promoted first (R71). -/
def subMixed (a b : Word) : Word := wrap32 (a.toInt - (promote b).toInt)

/-- The command ADD_FP (R68, R81). -/
def execAddFp (s : State) : Outcome := .next (s.writeResult (addFp s.operandA s.operandB))

/-- The command ADD_MIXED (R69, R81). -/
def execAddMixed (s : State) : Outcome := .next (s.writeResult (addMixed s.operandA s.operandB))

/-- The command SUB_FP (R70, R81). -/
def execSubFp (s : State) : Outcome := .next (s.writeResult (subFp s.operandA s.operandB))

/-- The command SUB_MIXED (R71, R81). -/
def execSubMixed (s : State) : Outcome := .next (s.writeResult (subMixed s.operandA s.operandB))

end Sys2Proof.Machine
end

