-- ==== Sys2Proof/Machine/Conversion.lean ====
section
/-! DEFINITION. The conversion family: INT_TO_FP, FP_TO_INT, FP_TO_INT_ROUND (40_conversion.md). -/

namespace Sys2Proof.Machine

/-- INT_TO_FP(a) (R63). -/
def intToFp (a : Word) : Word := wrap32 (a.toInt * Config.scale)

/-- FP_TO_INT(a), truncating toward zero (R64). -/
def fpToInt (a : Word) : Word := wrap32 (tdiv a.toInt Config.scale)

/-- The operand of FP_TO_INT_ROUND moved away from zero by half the scale, at 32 bits with wraparound; the branch is
chosen by the sign of the operand (R65). -/
def roundingOffset (a : Word) : Word :=
  if 0 ≤ a.toInt then wrap32 (a.toInt + Config.halfScale) else wrap32 (a.toInt - Config.halfScale)

/-- FP_TO_INT_ROUND(a), rounding half away from zero but for the wrapped offset (R65). -/
def fpToIntRound (a : Word) : Word := wrap32 (tdiv (roundingOffset a).toInt Config.scale)

/-- The command INT_TO_FP (R63, R81); operand B is ignored (R53). -/
def execIntToFp (s : State) : Outcome := .next (s.writeResult (intToFp s.operandA))

/-- The command FP_TO_INT (R64, R81); operand B is ignored (R53). -/
def execFpToInt (s : State) : Outcome := .next (s.writeResult (fpToInt s.operandA))

/-- The command FP_TO_INT_ROUND (R65, R81); operand B is ignored (R53). -/
def execFpToIntRound (s : State) : Outcome := .next (s.writeResult (fpToIntRound s.operandA))

end Sys2Proof.Machine
end

