-- ==== Sys2Proof/Machine/Divide.lean ====
section
/-! DEFINITION. The divider family: DIV_FP, DIV_MIXED (43_divide.md). -/

namespace Sys2Proof.Machine

/-- DIV_FP(a, b) for b ≠ 0: the scaled dividend, divided toward zero, narrowed to 32 bits (R78). The 64-bit data path of
R8 is `divFp64` in Machine/Datapath.lean. -/
def divFp (a b : Word) : Word := wrap32 (tdiv (a.toInt * Config.scale) b.toInt)

/-- DIV_MIXED(a, b) for b ≠ 0 (R79). -/
def divMixed (a b : Word) : Word := wrap32 (tdiv a.toInt b.toInt)

/-- A division: DivideByZero when operand B is 0, whatever operand A is, and else the result (R77, R82). -/
def divideOrRaise (y : Word) (s : State) : Outcome :=
  if s.operandB = 0#32 then .next (s.raise .divideByZero) else .next (s.writeResult y)

/-- The command DIV_FP (R78, R81). -/
def execDivFp (s : State) : Outcome := divideOrRaise (divFp s.operandA s.operandB) s

/-- The command DIV_MIXED (R79, R81). -/
def execDivMixed (s : State) : Outcome := divideOrRaise (divMixed s.operandA s.operandB) s

end Sys2Proof.Machine
end

