-- ==== Sys2Proof/Machine/Multiply.lean ====
section
/-! DEFINITION. The multiplier family: MULT_FP, MULT_MIXED (42_multiply.md). -/

namespace Sys2Proof.Machine

/-- MULT_FP(a, b): the exact product, divided by the scale toward zero, narrowed to 32 bits (R74). The 64-bit data path
of R8 is `multFp64` in Machine/Datapath.lean. -/
def multFp (a b : Word) : Word := wrap32 (tdiv (a.toInt * b.toInt) Config.scale)

/-- MULT_MIXED(a, b) (R75). -/
def multMixed (a b : Word) : Word := wrap32 (a.toInt * b.toInt)

/-- The command MULT_FP (R74, R81). -/
def execMultFp (s : State) : Outcome := .next (s.writeResult (multFp s.operandA s.operandB))

/-- The command MULT_MIXED (R75, R81). -/
def execMultMixed (s : State) : Outcome := .next (s.writeResult (multMixed s.operandA s.operandB))

end Sys2Proof.Machine
end

