-- ==== Sys2Proof/Machine/Dispatch.lean ====
section
/-! DEFINITION. The meaning of every instruction: one arm per constructor of `Instr`. -/

namespace Sys2Proof.Machine

def exec (i : Instr) (s : State) : Host.Outcome State Fault Refusal :=
  match i with
  | .intToFp => Sys2Proof.Machine.execIntToFp s
  | .fpToInt => Sys2Proof.Machine.execFpToInt s
  | .fpToIntRound => Sys2Proof.Machine.execFpToIntRound s
  | .addFp => Sys2Proof.Machine.execAddFp s
  | .addMixed => Sys2Proof.Machine.execAddMixed s
  | .subFp => Sys2Proof.Machine.execSubFp s
  | .subMixed => Sys2Proof.Machine.execSubMixed s
  | .multFp => Sys2Proof.Machine.execMultFp s
  | .multMixed => Sys2Proof.Machine.execMultMixed s
  | .divFp => Sys2Proof.Machine.execDivFp s
  | .divMixed => Sys2Proof.Machine.execDivMixed s

end Sys2Proof.Machine
end

