-- ==== Sys2Proof/Machine/Flags.lean ====
section
/-! DEFINITION. The STATUS register (10_state.md R26 to R29). The FXU has no arithmetic flags: no carry, overflow, zero,
sign or inexact flag is computed by any operation (R32). -/

namespace Sys2Proof.Machine

/-- What a read of STATUS returns: `{30'b0, ILL, DZ}` (R26, R29). -/
def State.statusWord (s : State) : Word := 0#30 ++ BitVec.ofBool s.ill ++ BitVec.ofBool s.dz

/-- A host write of STATUS: `if v[0] = 1 then DZ <- 0; if v[1] = 1 then ILL <- 0` (R26). -/
def State.writeStatus (v : Word) (s : State) : State :=
  { s with dz := s.dz && !v.getLsbD 0, ill := s.ill && !v.getLsbD 1 }

end Sys2Proof.Machine
end

