-- ==== Sys2Proof/Machine/Access.lean ====
section
/-! DEFINITION. One event at the register window: a command (60_exceptions.md R81), an access (20_memory.md R35 to R42) or a
reset (70_reset_and_hazards.md R97 to R99). Each is one indivisible step (R43). -/

namespace Sys2Proof.Machine

/-- `command(c)` of R81: the word is decoded, an illegal word raises IllegalCommand and nothing else happens, and a legal
word performs its operation on OPA and OPB as they stand. -/
def performCommand (c : Word) (s : State) : Outcome :=
  match decode c with
  | .illegal _ => .next (s.raise .illegalCommand)
  | .legal i => exec i s

/-- What a read of a register returns; no read has a side effect (R36, R41). -/
def readRegister (r : WindowReg) (s : State) : Word :=
  match r with
  | .opa => s.opa
  | .opb => s.opb
  | .cmd => 0x00000000#32
  | .res => s.res
  | .status => s.statusWord

/-- What a write of a register does (R36). -/
def writeRegister (r : WindowReg) (v : Word) (s : State) : Outcome :=
  match r with
  | .opa => .next { s with opa := v }
  | .opb => .next { s with opb := v }
  | .cmd => performCommand v s
  | .res => .next s
  | .status => .next (s.writeStatus v)

/-- An admitted access: a read is answered with the register's value; a write is acknowledged, also when its command
records a fault in STATUS (R87, log 8), and done. -/
def performAdmitted (r : WindowReg) (a : Access) (s : State) : Outcome :=
  match a.op with
  | .read => .next (s.respond a.host (.data (readRegister r s)))
  | .write v => writeRegister r v (s.respond a.host .done)

/-- One access: the FXU does not respond outside its window (R35, log 4); in the window an access that is not admitted
raises BusError and performs nothing else (R37, R39, R86). No check is made of who accesses (R48, R91). -/
def performAccess (a : Access) (s : State) : Outcome :=
  match windowOffset s.platform a.addr with
  | none => .next s
  | some off =>
    match selectRegister off a.width with
    | none => raiseBusError a s
    | some r => performAdmitted r a s

/-- The answer to an access that reset cuts, a free value (R99, log 6). An address outside the window is not the FXU's to
answer (R35). -/
def answerCut (a : Access) (s : State) : State :=
  match windowOffset s.platform a.addr, Config.cutReply s.cuts with
  | none, _ => s
  | some _, none => { s with cuts := s.cuts + 1 }
  | some _, some r => { s.respond a.host r with cuts := s.cuts + 1 }

/-- Reset: one step that sets the state of R98, whether an access it interrupts is completed first or abandoned (R99). -/
def performReset (cut : Option Access) (s : State) : State :=
  match cut with
  | none => s.resetRegisters
  | some a => answerCut a s.resetRegisters

/-- One event. -/
def performEvent (e : BusEvent) (s : State) : Outcome :=
  match e with
  | .access a => performAccess a s
  | .reset cut => .next (performReset cut s)

/-- The access by which host 0 writes a command word to CMD: `MemWrite(FXP_BASE + 0x08, 4, c)` (R81). -/
def commandWrite (p : Platform) (c : Word) : Access :=
  { host := 0, addr := p.base + 0x08, width := 4, op := .write c, onError := .goesOn }

end Sys2Proof.Machine
end

