-- ==== Sys2Proof/Machine/Step.lean ====
section
/-! DEFINITION. One step of the machine: the next event of the total order of accesses (20_memory.md R43, R44). -/

namespace Sys2Proof.Machine

/-- One step. With no event pending the FXU is idle and holds its state (10_state.md R34, 60_exceptions.md R96); else the
first event is taken from the order and performed. -/
def step (s : State) : Host.Outcome State Fault Refusal :=
  match s.pending with
  | [] => .next s
  | e :: rest => performEvent e { s with pending := rest }

/-- s with the command word of `nbits` bits as the next thing the FXU is given: a host's write of it to CMD, placed before
every other pending event (log 1). -/
def State.withFetchWord (s : State) (nbits w : Nat) : State :=
  { s with pending := .access (commandWrite s.platform (BitVec.ofNat 32 (w % 2 ^ nbits))) :: s.pending }

end Sys2Proof.Machine
end

