-- ==== Sys2Proof/Machine/Assembler.lean ====
section
/-! DEFINITION. The notation of host programs (30_encoding.md R59 to R61): statements, pseudo-instructions and their
expansions, the transactions they make and the text of a transaction. The FXU never sees a host program; it sees the
accesses this file turns one into. Host variables are numbered, and text that the FXU never sees (comments, labels, the
wording of a HOST step) has no place here (log 9). -/

namespace Sys2Proof.Machine

/-- A host variable, by number (log 9). -/
abbrev HostVar := Nat

/-- The host variables bound so far and their values, latest first. -/
abbrev HostVars := List (HostVar × Word)

/-- `<reg>`: a register by name, or `@<off>`, a raw offset in the window (R59). -/
inductive AsmReg where
  | named (r : WindowReg)
  | raw (off : Nat)
deriving DecidableEq, Repr

/-- `<value>` (R59): a decimal integer, a hexadecimal pattern, a host variable, or `fx(r)` for the decimal real
r = digits / 10^places. -/
inductive AsmValue where
  | dec (n : Int)
  | hex (w : Word)
  | var (v : HostVar)
  | fx (digits : Int) (places : Nat)
deriving DecidableEq, Repr

/-- A statement: the three of R59 and the pseudo-instructions of R60. A HOST step is the list of the bindings it
leaves. -/
inductive AsmStmt where
  | wr (r : AsmReg) (v : AsmValue)
  | rd (r : AsmReg) (x : HostVar)
  | host (sets : HostVars)
  | cmd (i : Instr)
  | fxBinary (i : Instr) (a b : AsmValue)
  | fxUnary (i : Instr) (a : AsmValue)
  | mov (r : WindowReg)
  | clrStatus
deriving DecidableEq, Repr

/-- A transaction in the window (R61): a write of a word at an offset, or a read. -/
inductive Transaction where
  | write (off : Nat) (v : Word)
  | read (off : Nat)
deriving DecidableEq, Repr

/-- The offset in the window; a raw offset outside it is refused (R59). -/
def AsmReg.offset : AsmReg → Option Nat
  | .named r => some r.offset
  | .raw off => if off < Config.windowSize then some off else none

/-- The word a value stands for. A decimal integer must be in `i32`; an `fx` literal whose r × 16384 is not an integer in
`i32` is refused, never rounded (R59). -/
def AsmValue.eval (vars : HostVars) : AsmValue → Option Word
  | .dec n => if inI32 n then some (wrap32 n) else none
  | .hex w => some w
  | .var v => vars.lookup v
  | .fx digits places =>
    let scaled := digits * Config.scale
    if scaled % 10 ^ places = 0 ∧ inI32 (scaled / 10 ^ places) then some (wrap32 (scaled / 10 ^ places)) else none

/-- The expansion of a statement into WR, RD and HOST statements (R60); `fresh` is the fresh host variable of MOV. A
pseudo-instruction whose mnemonic or register does not have the shape R60 gives it is refused. -/
def AsmStmt.expand (fresh : HostVar) : AsmStmt → Option (List AsmStmt)
  | .wr r v => some [.wr r v]
  | .rd r x => some [.rd r x]
  | .host sets => some [.host sets]
  | .cmd i => some [.wr (.named .cmd) (.hex (encode i))]
  | .fxBinary i a b =>
    if i.unary then none
    else some [.wr (.named .opa) a, .wr (.named .opb) b, .wr (.named .cmd) (.hex (encode i))]
  | .fxUnary i a =>
    if i.unary then some [.wr (.named .opa) a, .wr (.named .cmd) (.hex (encode i))] else none
  | .mov .opa => some [.rd (.named .res) fresh, .wr (.named .opa) (.var fresh)]
  | .mov .opb => some [.rd (.named .res) fresh, .wr (.named .opb) (.var fresh)]
  | .mov .cmd | .mov .res | .mov .status => none
  | .clrStatus => some [.wr (.named .status) (.hex 0x00000003#32)]

/-- The transaction of a WR or RD statement under the host variables bound so far; none for the others. -/
def AsmStmt.transaction (vars : HostVars) : AsmStmt → Option Transaction
  | .wr r v =>
    match r.offset, v.eval vars with
    | some off, some w => some (.write off w)
    | _, _ => none
  | .rd r _ => r.offset.map .read
  | .host _ | .cmd _ | .fxBinary _ _ _ | .fxUnary _ _ | .mov _ | .clrStatus => none

/-- The bus access of a transaction of host `h`: 4 bytes at `FXP_BASE + off` (R59, R61). -/
def Transaction.access (p : Platform) (h : Nat) (re : HostReaction) : Transaction → Access
  | .write off v => { host := h, addr := p.base + off, width := 4, op := .write v, onError := re }
  | .read off => { host := h, addr := p.base + off, width := 4, op := .read, onError := re }

/-- The hexadecimal digit of a number below 16. -/
def hexDigit (n : Nat) : Char :=
  if n < 10 then Char.ofNat (48 + n) else Char.ofNat (55 + n)

/-- The last `digits` hexadecimal digits of a number, most significant first. -/
def hexDigits : Nat → Nat → List Char
  | 0, _ => []
  | digits + 1, n => hexDigits digits (n / 16) ++ [hexDigit (n % 16)]

/-- The text of a transaction: `W <off> <data>` with a 2-digit offset and 8-digit data, or `R <off>` (R61). -/
def Transaction.text : Transaction → List Char
  | .write off v => ['W', ' '] ++ hexDigits 2 off ++ [' '] ++ hexDigits 8 v.toNat
  | .read off => ['R', ' '] ++ hexDigits 2 off

/-- Host `h` performs one expanded statement on the bus at once, before every pending event: a WR or RD makes one
transaction, an RD binds the word it was answered, and after a bus error a read binds nothing (R59, R84). `none`
where the assembler refuses the statement or the run stops. -/
def AsmStmt.perform (h : Nat) (re : HostReaction) (st : AsmStmt) (vars : HostVars) (s : State) :
    Option (HostVars × State) :=
  match st with
  | .host sets => some (sets ++ vars, s)
  | .wr _ _ | .rd _ _ | .cmd _ | .fxBinary _ _ _ | .fxUnary _ _ | .mov _ | .clrStatus =>
    match st.transaction vars with
    | none => none
    | some tr =>
      match step { s with pending := .access (tr.access s.platform h re) :: s.pending } with
      | .next t =>
        match st, t.responses.getLast? with
        | .rd _ x, some { host := _, reply := .data v } => some ((x, v) :: vars, t)
        | _, _ => some (vars, t)
      | .fault _ => none
      | .refused _ => none

end Sys2Proof.Machine
end

