-- ==== Sys2Proof/Machine/Datapath.lean ====
section
/-! DEFINITION. The multiplier's and the divider's 64-bit data path (00_scope.md R8, 42_multiply.md R74,
43_divide.md R78): operands sign-extended to 64 bits, the operation at 64 bits, the low 32 bits kept. Statements say
that it computes what `multFp` and `divFp` compute on mathematical integers. -/

namespace Sys2Proof.Machine

/-- The scale constant at 64 bits. -/
def scale64 : BitVec 64 := 16384#64

/-- The 64-bit product of MULT_FP (R74). -/
def product64 (a b : Word) : BitVec 64 := sext64 a * sext64 b

/-- The 64-bit scaled dividend of DIV_FP (R78). -/
def scaledDividend64 (a : Word) : BitVec 64 := sext64 a * scale64

/-- MULT_FP at 64 bits: widen, multiply, divide toward zero, narrow. -/
def multFp64 (a b : Word) : Word := ((product64 a b).sdiv scale64).setWidth 32

/-- DIV_FP at 64 bits: widen, scale, divide toward zero, narrow. -/
def divFp64 (a b : Word) : Word := ((scaledDividend64 a).sdiv (sext64 b)).setWidth 32

end Sys2Proof.Machine
end

