-- ==== Sys2Proof/Machine/FxCore.lean ====
section
/-! DEFINITION. FXCORE, the stateless combinational function from a command word and two operands to a result and two
fault indications (00_scope.md R2, 10_state.md R21). It is written apart from the register interface; that the two
agree (60_exceptions.md R90) is a statement. -/

namespace Sys2Proof.Machine

/-- The outputs of FXCORE (R21). -/
structure CoreOut where
  y : Word
  dz : Bool
  ill : Bool
deriving DecidableEq, Repr

/-- The result of an operation on operand values, `none` where it raises DivideByZero (R52, R82). -/
def operation (i : Instr) (a b : Word) : Option Word :=
  match i with
  | .intToFp => some (intToFp a)
  | .fpToInt => some (fpToInt a)
  | .fpToIntRound => some (fpToIntRound a)
  | .addFp => some (addFp a b)
  | .addMixed => some (addMixed a b)
  | .subFp => some (subFp a b)
  | .subMixed => some (subMixed a b)
  | .multFp => some (multFp a b)
  | .multMixed => some (multMixed a b)
  | .divFp => if b = 0#32 then none else some (divFp a b)
  | .divMixed => if b = 0#32 then none else some (divMixed a b)

/-- `FXCORE(c, a, b) = (y, dz, ill)`; y is 0 on a fault, and an illegal word is never examined for division by zero
(R21, R82, R83, R86). -/
def fxcore (c a b : Word) : CoreOut :=
  match decode c with
  | .illegal _ => { y := 0#32, dz := false, ill := true }
  | .legal i =>
    match operation i a b with
    | none => { y := 0#32, dz := true, ill := false }
    | some y => { y := y, dz := false, ill := false }

end Sys2Proof.Machine
end

