-- ==== Sys2Proof/WellFormed.lean ====
section
/-! DEFINITION. Well-formedness. A command has no operand field (30_encoding.md R49, R54), so every `Instr` is
well formed; what can be ill formed is a 32-bit command word (R56), a platform (00_scope.md R9) and an event
that names a host the platform does not have. -/

namespace Sys2Proof

/-- Every instruction is well formed: no field of the command word is an operand (R54). -/
def Instr.wellFormed : Instr → Bool
  | .intToFp | .fpToInt | .fpToIntRound | .addFp | .addMixed | .subFp | .subMixed
  | .multFp | .multMixed | .divFp | .divMixed => true

/-- "Exactly eleven of the 2^32 command words are legal: 0x00000000 to 0x0000000A" (R56). -/
def legalCommandWord (c : Word) : Bool := c.toNat ≤ 0xA

/-- `FXP_HOSTS` is at least 1 (R9); that `FXP_BASE` is a multiple of 32 (R35) holds by its form. -/
def Platform.wellFormed (p : Platform) : Bool := 1 ≤ p.hosts

/-- The host of an access is one of the platform's `FXP_HOSTS` hosts (20_memory.md R45). -/
def Machine.Access.wellFormed (p : Platform) (a : Machine.Access) : Bool := a.host < p.hosts

/-- An event's access, if it has one, comes from a host of the platform. -/
def Machine.BusEvent.wellFormed (p : Platform) : Machine.BusEvent → Bool
  | .access a => a.wellFormed p
  | .reset none => true
  | .reset (some a) => a.wellFormed p

end Sys2Proof
end

