-- ==== Sys2Proof/Safety.lean ====
section
/-! DEFINITION. The terms in which claims are stated: runs over a list of events, what counts as a safe run, the invariant,
what the next event is, and what an event leaves in a register (20_memory.md R44). -/

namespace Sys2Proof.Machine

/-- STATUS = 0x00000000: no fault is recorded (60_exceptions.md R90). -/
def State.clean (s : State) : Bool := !s.dz && !s.ill

/-- `k` steps, stopping at the first fault or refusal. -/
def stepN : Nat → State → Outcome
  | 0, s => .next s
  | k + 1, s =>
    match step s with
    | .next t => stepN k t
    | .fault r => .fault r
    | .refused r => .refused r

/-- The machine serves the events `q`, in that order, from the registers of `s`: one step each. -/
def serve (q : List BusEvent) (s : State) : Outcome := stepN q.length { s with pending := q }

/-- An access in the window that is not admitted (R37, R39): the accesses that raise BusError (R84). -/
def Access.malformed (p : Platform) (a : Access) : Prop :=
  p.base ≤ a.addr ∧ a.addr < p.base + 32 ∧
    (p.base + 0x14 ≤ a.addr ∨ a.width ≠ 4 ∨ ¬ 4 ∣ a.addr)

/-- An event that cannot end a run: it is not a malformed access whose host stops on the bus error. -/
def BusEvent.harmless (p : Platform) : BusEvent → Prop
  | .access a => a.malformed p → a.onError = .goesOn
  | .reset _ => True

/-- A SAFE RUN: every event is harmless, so the run reaches the end of its list. A claim about the values it computes
takes STATUS = 0 at its start and end as its premise (R90). -/
def safeRun (p : Platform) (q : List BusEvent) : Prop := ∀ e ∈ q, e.harmless p

/-- THE INVARIANT: the platform is one R9 allows, every pending event comes from one of its hosts, and every answer went
to one of its hosts. -/
def State.Inv (s : State) : Prop :=
  s.platform.wellFormed = true ∧ (∀ e ∈ s.pending, e.wellFormed s.platform = true) ∧
    ∀ r ∈ s.responses, r.host < s.platform.hosts

/-- The access `a` writes `v` to the register at offset `off`: an admitted access when `off` is one of R36's. -/
def Access.writesAt (p : Platform) (off : Nat) (v : Word) (a : Access) : Prop :=
  a.op = .write v ∧ a.width = 4 ∧ a.addr = p.base + off

/-- The access `a` reads the register at offset `off`. -/
def Access.readsAt (p : Platform) (off : Nat) (a : Access) : Prop :=
  a.op = .read ∧ a.width = 4 ∧ a.addr = p.base + off

/-- The next event is a write of `v` to the register at offset `off`. -/
def State.nextWrites (s : State) (off : Nat) (v : Word) : Prop :=
  ∃ a rest, s.pending = .access a :: rest ∧ a.writesAt s.platform off v

/-- The next event is a reset. -/
def State.nextResets (s : State) : Prop := ∃ cut rest, s.pending = .reset cut :: rest

/-- The word an event leaves in the operand register at offset `off` (0x00 for OPA, 0x04 for OPB), if it writes it. -/
def BusEvent.setsOperand (p : Platform) (off : Nat) : BusEvent → Option Word
  | .reset _ => some 0#32
  | .access a =>
    match a.op with
    | .read => none
    | .write v => if a.width = 4 ∧ a.addr = p.base + off then some v else none

/-- The word the latest event of `q` that writes the operand register at `off` leaves in it, `init` if none does. -/
def latestOperand (p : Platform) (off : Nat) (q : List BusEvent) (init : Word) : Word :=
  ((q.filterMap (BusEvent.setsOperand p off)).getLast?).getD init

/-- The word an event leaves in RES when the events `before` precede it from state `s`, if it writes RES: reset leaves 0,
and a command that completes without a fault leaves its result on the latest operands (10_state.md R25). -/
def BusEvent.setsResult (s : State) (before : List BusEvent) : BusEvent → Option Word
  | .reset _ => some 0#32
  | .access a =>
    match a.op with
    | .read => none
    | .write c =>
      if a.width = 4 ∧ a.addr = s.platform.base + 0x08 then
        let o := fxcore c (latestOperand s.platform 0x00 before s.opa) (latestOperand s.platform 0x04 before s.opb)
        if o.ill || o.dz then none else some o.y
      else none

/-- The host an event's access gets its one answer for: `none` outside the window, and for a reset, whose cut access may
stay without one. -/
def BusEvent.answeredHost (p : Platform) : BusEvent → Option Nat
  | .reset _ => none
  | .access a => if p.base ≤ a.addr ∧ a.addr < p.base + 32 then some a.host else none

/-- An access with its host renamed. -/
def Access.rename (f : Nat → Nat) (a : Access) : Access := { a with host := f a.host }

/-- An event with its host renamed. -/
def BusEvent.rename (f : Nat → Nat) : BusEvent → BusEvent
  | .access a => .access (a.rename f)
  | .reset cut => .reset (cut.map (Access.rename f))

/-- The state with every host renamed. -/
def State.rename (f : Nat → Nat) (s : State) : State :=
  { s with
    pending := s.pending.map (BusEvent.rename f)
    responses := s.responses.map fun r => { r with host := f r.host } }

/-- An access moved by `k` windows. -/
def Access.move (k : Nat) (a : Access) : Access := { a with addr := a.addr + Config.windowSize * k }

/-- An event moved by `k` windows. -/
def BusEvent.move (k : Nat) : BusEvent → BusEvent
  | .access a => .access (a.move k)
  | .reset cut => .reset (cut.map (Access.move k))

/-- The state on a platform that places the window `k` windows higher, with every pending access moved along. -/
def State.move (k : Nat) (s : State) : State :=
  { s with
    platform := { s.platform with window := s.platform.window + k }
    pending := s.pending.map (BusEvent.move k) }

/-- "`i` completes on operands `a` and `b` with result `y`": from every state that holds them, the command answers the next
state in which RES is `y` and everything else is as before (00_scope.md R17, 60_exceptions.md R81). -/
def yields (i : Instr) (a b y : Word) : Prop :=
  ∀ s : State, s.opa = a → s.opb = b → exec i s = .next { s with res := y }

end Sys2Proof.Machine
end

