-- ==== Sys2Proof/Certificates/Slice0/Obligations.lean ====
section
/-! DEFINITION. The statements for the provers. Each docstring names the rules of spec/ it comes from. -/

open Sys2Proof Sys2Proof.Machine

/-! ### Reset -/

/-- R33: the registers after reset are 0, STATUS reads 0 and CMD holds nothing. -/
def Obligations.ResetStateIsAllZero : Prop :=
  State.reset.opa = 0#32 ∧ State.reset.opb = 0#32 ∧ State.reset.res = 0#32 ∧ State.reset.dz = false ∧
    State.reset.ill = false ∧ State.reset.statusWord = 0x00000000#32 ∧
    ∀ s, readRegister .cmd s = 0x00000000#32

/-- From R98: a reset step sets the registers of R33 whatever they held. That the step takes the first event of the list, and
that the next step performs the event after it ("the FXU accepts accesses at once"), is in the model's terms: log 1. -/
def Obligations.ResetStepClearsAndGoesOn : Prop :=
  ∀ s rest, s.pending = .reset none :: rest →
    step s = .next { s with opa := 0#32, opb := 0#32, res := 0#32, dz := false, ill := false, pending := rest } ∧
    ∀ t e rest', step s = .next t → rest = e :: rest' → step t = performEvent e { t with pending := rest' }

/-- R99: an access cut by reset, completed or abandoned, leaves the state of R98 in the registers. The answer its host gets
is the free value of log 6, so nothing is said of it but that it goes to that host. -/
def Obligations.ResetOverridesTheAccessItCuts : Prop :=
  ∀ s a rest, s.pending = .reset (some a) :: rest →
    ∃ t new, step s = .next t ∧
      (t.opa = 0#32 ∧ t.opb = 0#32 ∧ t.res = 0#32 ∧ t.dz = false ∧ t.ill = false) ∧
      t.platform = s.platform ∧ t.pending = rest ∧
      t.responses = s.responses ++ new ∧ new.length ≤ 1 ∧ (∀ r ∈ new, r.host = a.host) ∧
      ∀ u, performAccess a { s with pending := rest } = .next u →
        let v := u.resetRegisters
        v.opa = t.opa ∧ v.opb = t.opb ∧ v.res = t.res ∧ v.dz = t.dz ∧ v.ill = t.ill ∧ v.pending = t.pending

/-! ### Decoding -/

/-- 95_test_vectors.md section 2.5 and R51: words written out from the encoding decode as they should. -/
def Obligations.SampleWordsDecode : Prop :=
  decode 0b00000000000000000000000000000000#32 = .legal .intToFp ∧
  decode 0b00000000000000000000000000000010#32 = .legal .fpToIntRound ∧
  decode 0b00000000000000000000000000000011#32 = .legal .addFp ∧
  decode 0b00000000000000000000000000000111#32 = .legal .multFp ∧
  decode 0b00000000000000000000000000001010#32 = .legal .divMixed ∧
  decode 0x0000000B#32 = .illegal .reservedOp ∧ decode 0x0000000F#32 = .illegal .reservedOp ∧
  decode 0x00000013#32 = .illegal .reservedField ∧ decode 0x00000019#32 = .illegal .reservedField ∧
  decode 0x80000003#32 = .illegal .reservedField ∧ decode 0xFFFFFFFF#32 = .illegal .reservedField

/-- R58: the decoder reads an operation exactly from that operation's one word, and the legal words are exactly
0x00000000 to 0x0000000A; FXCORE's `ill` is 1 exactly for the others. -/
def Obligations.DecodeAndEncodeAgreeOnEveryWord : Prop :=
  ([Instr.intToFp, .fpToInt, .fpToIntRound, .addFp, .addMixed, .subFp, .subMixed, .multFp, .multMixed, .divFp,
      .divMixed].map encode
    = [0x0#32, 0x1#32, 0x2#32, 0x3#32, 0x4#32, 0x5#32, 0x6#32, 0x7#32, 0x8#32, 0x9#32, 0xA#32]) ∧
  (∀ c i, decode c = .legal i ↔ c = encode i) ∧
  (∀ c, (∃ i, decode c = .legal i) ↔ legalCommandWord c = true) ∧
  (∀ c, decode c = .illegal .reservedField ↔ c.toNat / 16 ≠ 0) ∧
  (∀ c, decode c = .illegal .reservedOp ↔ c.toNat / 16 = 0 ∧ 0xB ≤ c.toNat % 16) ∧
  ∀ c a b, (fxcore c a b).ill = true ↔ ∃ why, decode c = .illegal why

/-! ### Arithmetic primitives -/

/-- R14: `wrap32(v)` is the one word congruent to v modulo 2^32, the low 32 bits of v at any greater width, and a ring
homomorphism; `sext_64` keeps the value. -/
def Obligations.WrapIsTheCongruentWord : Prop :=
  (∀ v : Int, (2 ^ 32 : Int) ∣ v - (wrap32 v).toInt) ∧
  (∀ v : Int, -2147483648 ≤ (wrap32 v).toInt ∧ (wrap32 v).toInt ≤ 2147483647) ∧
  (∀ (v : Int) (w : Word), (2 ^ 32 : Int) ∣ v - w.toInt → w = wrap32 v) ∧
  (∀ (v : Int) (k : Nat), 32 ≤ k → wrap32 v = (BitVec.ofInt k v).setWidth 32) ∧
  (∀ a b : Int, wrap32 (a + (wrap32 b).toInt) = wrap32 (a + b)) ∧
  (∀ a b : Int, wrap32 (a * (wrap32 b).toInt) = wrap32 (a * b)) ∧
  (∀ w : Word, (sext64 w).toInt = w.toInt) ∧
  ∀ (w : Word) (k : Nat), 32 ≤ k → k < 64 → (sext64 w).getLsbD k = w.getLsbD 31

/-- R15: the magnitude of `tdiv(p, q)` is floor(|p| / |q|), and it is negative exactly when the signs differ and the
magnitude is not 0. -/
def Obligations.TdivRoundsTowardZero : Prop :=
  (∀ p q : Int, q ≠ 0 → (tdiv p q).natAbs = p.natAbs / q.natAbs ∧
    (tdiv p q < 0 ↔ ((p < 0 ∧ 0 < q) ∨ (0 < p ∧ q < 0)) ∧ p.natAbs / q.natAbs ≠ 0)) ∧
  tdiv (-7) 2 = -3 ∧ tdiv (-1) 16384 = 0

/-- R8: no 64-bit intermediate overflows. -/
def Obligations.WidenedIntermediatesAreExact : Prop :=
  ∀ a b : Word,
    (a.toInt * b.toInt).natAbs ≤ 2 ^ 62 ∧ (product64 a b).toInt = a.toInt * b.toInt ∧
    (a.toInt * 16384).natAbs ≤ 2 ^ 45 ∧ (scaledDividend64 a).toInt = a.toInt * 16384

/-- R8, R74: the 64-bit data path of the multiplier computes the multiply of mathematical integers. -/
def Obligations.MultiplierDatapathComputesMultFp : Prop :=
  ∀ a b : Word, multFp64 a b = multFp a b

/-- R8, R78: the 64-bit data path of the divider computes the division of mathematical integers. -/
def Obligations.DividerDatapathComputesDivFp : Prop :=
  ∀ a b : Word, b ≠ 0#32 → divFp64 a b = divFp a b

/-! ### The eleven operations -/

/-- R63. -/
def Obligations.IntToFpRule : Prop :=
  decode 0x00000000#32 = .legal .intToFp ∧
  (∀ s, exec .intToFp s = .next { s with res := wrap32 (s.opa.toInt * 16384) }) ∧
  (∀ n : Word, (wrap32 (n.toInt * 16384)).toInt = n.toInt * 16384 ↔ -131072 ≤ n.toInt ∧ n.toInt ≤ 131071) ∧
  (∀ n : Word, wrap32 (n.toInt * 16384) = n.extractLsb' 0 18 ++ 0#14) ∧
  (∀ b, yields .intToFp 3#32 b 0x0000C000#32 ∧ yields .intToFp 131072#32 b 0x80000000#32 ∧
    yields .intToFp (-131073#32) b 0x7FFFC000#32 ∧ yields .intToFp 0x7FFFFFFF#32 b 0xFFFFC000#32 ∧
    yields .intToFp 0x80000000#32 b 0x00000000#32)

/-- R64. -/
def Obligations.FpToIntRule : Prop :=
  decode 0x00000001#32 = .legal .fpToInt ∧
  (∀ s, exec .fpToInt s = .next { s with res := wrap32 (tdiv s.opa.toInt 16384) }) ∧
  (∀ x : Word, -131072 ≤ tdiv x.toInt 16384 ∧ tdiv x.toInt 16384 ≤ 131071) ∧
  (∀ x : Word, x.toInt < 0 → ¬ (16384 : Int) ∣ x.toInt → wrap32 (tdiv x.toInt 16384) ≠ x.sshiftRight 14) ∧
  (∀ b, yields .fpToInt 49152#32 b 3#32 ∧ yields .fpToInt 0xFFFFFFFF#32 b 0#32 ∧
    yields .fpToInt (-16383#32) b 0#32 ∧ yields .fpToInt (-16384#32) b (-1#32) ∧
    yields .fpToInt (-16385#32) b (-1#32) ∧ yields .fpToInt 0x7FFFFFFF#32 b 131071#32 ∧
    yields .fpToInt 0x80000000#32 b (-131072#32))

/-- R65: the pseudocode, the round-half-away-from-zero outside the wrapping bands, the wrong sign inside them. -/
def Obligations.FpToIntRoundRule : Prop :=
  decode 0x00000002#32 = .legal .fpToIntRound ∧
  (∀ s, exec .fpToIntRound s = .next { s with
    res := wrap32 (tdiv (if 0 ≤ s.opa.toInt then wrap32 (s.opa.toInt + 8192) else wrap32 (s.opa.toInt - 8192)).toInt
      16384) }) ∧
  (∀ x : Word, -2147475456 ≤ x.toInt → x.toInt ≤ 2147475455 →
    2 * ((fpToIntRound x).toInt * 16384 - x.toInt).natAbs ≤ 16384 ∧
    (2 * ((fpToIntRound x).toInt * 16384 - x.toInt).natAbs = 16384 →
      x.toInt.natAbs < ((fpToIntRound x).toInt * 16384).natAbs)) ∧
  (∀ x : Word, 2147475456 ≤ x.toInt → (fpToIntRound x).toInt < 0) ∧
  (∀ x : Word, x.toInt ≤ -2147475457 → 0 < (fpToIntRound x).toInt) ∧
  (∀ b, yields .fpToIntRound 57344#32 b 4#32 ∧ yields .fpToIntRound (-57344#32) b (-4#32) ∧
    yields .fpToIntRound 8192#32 b 1#32 ∧ yields .fpToIntRound (-8192#32) b (-1#32) ∧
    yields .fpToIntRound 8191#32 b 0#32 ∧ yields .fpToIntRound (-8191#32) b 0#32 ∧
    yields .fpToIntRound 0#32 b 0#32 ∧ yields .fpToIntRound 0x7FFFE000#32 b (-131072#32) ∧
    yields .fpToIntRound 0x7FFFFFFF#32 b (-131071#32) ∧ yields .fpToIntRound 0x80000000#32 b 131071#32 ∧
    yields .fpToIntRound 0x80001FFF#32 b 131071#32)

/-- R68. -/
def Obligations.AddFpRule : Prop :=
  decode 0x00000003#32 = .legal .addFp ∧
  (∀ s, exec .addFp s = .next { s with res := wrap32 (s.opa.toInt + s.opb.toInt) }) ∧
  (∀ x y : Word, (addFp x y).toInt = x.toInt + y.toInt ↔
    -2147483648 ≤ x.toInt + y.toInt ∧ x.toInt + y.toInt ≤ 2147483647) ∧
  yields .addFp 49152#32 16384#32 65536#32 ∧ yields .addFp 0x7FFFFFFF#32 1#32 0x80000000#32 ∧
  yields .addFp 0x80000000#32 (-1#32) 0x7FFFFFFF#32 ∧ yields .addFp (-8192#32) 8192#32 0#32

/-- R69. -/
def Obligations.AddMixedRule : Prop :=
  decode 0x00000004#32 = .legal .addMixed ∧
  (∀ s, exec .addMixed s = .next { s with res := wrap32 (s.opa.toInt + (wrap32 (s.opb.toInt * 16384)).toInt) }) ∧
  (∀ s, exec .addMixed s = .next { s with res := wrap32 (s.opa.toInt + s.opb.toInt * 16384) }) ∧
  yields .addMixed 49152#32 2#32 0x00014000#32 ∧ yields .addMixed 0#32 131072#32 0x80000000#32 ∧
  yields .addMixed 0#32 (-131072#32) 0x80000000#32 ∧ yields .addMixed 0x7FFFFFFF#32 1#32 0x80003FFF#32 ∧
  yields .addMixed (-16384#32) (-1#32) (-32768#32)

/-- R70. -/
def Obligations.SubFpRule : Prop :=
  decode 0x00000005#32 = .legal .subFp ∧
  (∀ s, exec .subFp s = .next { s with res := wrap32 (s.opa.toInt - s.opb.toInt) }) ∧
  (∀ x y : Word, (subFp x y).toInt = x.toInt - y.toInt ↔
    -2147483648 ≤ x.toInt - y.toInt ∧ x.toInt - y.toInt ≤ 2147483647) ∧
  (∀ x, yields .subFp x x 0#32) ∧
  yields .subFp 49152#32 16384#32 32768#32 ∧ yields .subFp 0x80000000#32 1#32 0x7FFFFFFF#32 ∧
  yields .subFp 0#32 0x80000000#32 0x80000000#32

/-- R71. -/
def Obligations.SubMixedRule : Prop :=
  decode 0x00000006#32 = .legal .subMixed ∧
  (∀ s, exec .subMixed s = .next { s with res := wrap32 (s.opa.toInt - (wrap32 (s.opb.toInt * 16384)).toInt) }) ∧
  (∀ s, exec .subMixed s = .next { s with res := wrap32 (s.opa.toInt - s.opb.toInt * 16384) }) ∧
  yields .subMixed 49152#32 2#32 16384#32 ∧ yields .subMixed 0#32 (-131072#32) 0x80000000#32 ∧
  yields .subMixed 0x80000000#32 1#32 0x7FFFC000#32 ∧ yields .subMixed 8192#32 1#32 (-8192#32)

/-- R74. -/
def Obligations.MultFpRule : Prop :=
  decode 0x00000007#32 = .legal .multFp ∧
  (∀ s, exec .multFp s = .next { s with
    res := wrap32 (tdiv ((sext64 s.opa).toInt * (sext64 s.opb).toInt) 16384) }) ∧
  (∀ x y : Word, (x.toInt * y.toInt).natAbs ≤ 2 ^ 62 ∧ (tdiv (x.toInt * y.toInt) 16384).natAbs ≤ 2 ^ 48) ∧
  (∀ x y : Word, x.toInt * y.toInt < 0 → ¬ (16384 : Int) ∣ x.toInt * y.toInt →
    multFp x y ≠ ((product64 x y).sshiftRight 14).setWidth 32) ∧
  (∀ x, yields .multFp x 16384#32 x ∧ yields .multFp 16384#32 x x) ∧
  yields .multFp 32768#32 49152#32 98304#32 ∧ yields .multFp 65536#32 49152#32 196608#32 ∧
  yields .multFp (-1#32) 1#32 0#32 ∧ yields .multFp 1#32 (-1#32) 0#32 ∧ yields .multFp 1#32 1#32 0#32 ∧
  yields .multFp (-1#32) (-1#32) 0#32 ∧ yields .multFp 16383#32 1#32 0#32 ∧
  yields .multFp (-16383#32) (-16384#32) 16383#32 ∧ yields .multFp 5461#32 49152#32 16383#32 ∧
  yields .multFp 0x7FFFFFFF#32 0x7FFFFFFF#32 0xFFFC0000#32 ∧ yields .multFp 0x80000000#32 0x80000000#32 0#32 ∧
  yields .multFp 0x01000000#32 0x01000000#32 0#32

/-- R75. -/
def Obligations.MultMixedRule : Prop :=
  decode 0x00000008#32 = .legal .multMixed ∧
  (∀ s, exec .multMixed s = .next { s with res := wrap32 (s.opa.toInt * s.opb.toInt) }) ∧
  (∀ x n : Word, multMixed x n = x * n ∧ multMixed x n = (product64 x n).setWidth 32) ∧
  yields .multMixed 49152#32 2#32 98304#32 ∧ yields .multMixed 0x7FFFFFFF#32 2#32 (-2#32) ∧
  yields .multMixed 0x80000000#32 (-1#32) 0x80000000#32 ∧ yields .multMixed 131072#32 16384#32 0x80000000#32 ∧
  yields .multMixed (-49152#32) 3#32 (-147456#32)

/-- R78. -/
def Obligations.DivFpRule : Prop :=
  decode 0x00000009#32 = .legal .divFp ∧
  (∀ s, s.opb = 0#32 → exec .divFp s = .next { s with dz := true }) ∧
  (∀ s, s.opb ≠ 0#32 → exec .divFp s = .next { s with
    res := wrap32 (tdiv ((sext64 s.opa).toInt * 16384) (sext64 s.opb).toInt) }) ∧
  (∀ x y : Word, (x.toInt * 16384).natAbs ≤ 2 ^ 45 ∧ (tdiv (x.toInt * 16384) y.toInt).natAbs ≤ 2 ^ 45) ∧
  yields .divFp 163840#32 65536#32 0x0000A000#32 ∧ yields .divFp 16384#32 49152#32 5461#32 ∧
  yields .divFp (-16384#32) 49152#32 (-5461#32) ∧ yields .divFp 16384#32 (-49152#32) (-5461#32) ∧
  yields .divFp 1#32 16385#32 0#32 ∧ yields .divFp (-1#32) 16384#32 (-1#32) ∧
  yields .divFp 0x7FFFFFFF#32 1#32 0xFFFFC000#32 ∧ yields .divFp 0x80000000#32 1#32 0#32 ∧
  yields .divFp 0x80000000#32 (-1#32) 0#32

/-- R79. -/
def Obligations.DivMixedRule : Prop :=
  decode 0x0000000A#32 = .legal .divMixed ∧
  (∀ s, s.opb = 0#32 → exec .divMixed s = .next { s with dz := true }) ∧
  (∀ s, s.opb ≠ 0#32 → exec .divMixed s = .next { s with res := wrap32 (tdiv s.opa.toInt s.opb.toInt) }) ∧
  (∀ x n : Word, n ≠ 0#32 → ((divMixed x n).toInt ≠ tdiv x.toInt n.toInt ↔ x = 0x80000000#32 ∧ n = -1#32)) ∧
  yields .divMixed 40960#32 2#32 20480#32 ∧ yields .divMixed 7#32 (-2#32) (-3#32) ∧
  yields .divMixed (-7#32) 2#32 (-3#32) ∧ yields .divMixed (-1#32) 2#32 0#32 ∧
  yields .divMixed (-40960#32) 3#32 (-13653#32) ∧ yields .divMixed 0x80000000#32 (-1#32) 0x80000000#32 ∧
  yields .divMixed 0x7FFFFFFF#32 (-1#32) 0x80000001#32

/-! ### Laws of the families -/

/-- R66 (a) to (d). -/
def Obligations.ConversionLaws : Prop :=
  (∀ n : Word, -131072 ≤ n.toInt → n.toInt ≤ 131071 → fpToInt (intToFp n) = n) ∧
  (∀ n : Word, -131071 ≤ n.toInt → n.toInt ≤ 131071 → fpToIntRound (intToFp n) = n) ∧
  fpToIntRound (intToFp (-131072#32)) = 131071#32 ∧
  (∀ x : Word, -2147475456 ≤ x.toInt → x.toInt ≤ 2147475455 →
    ((fpToInt x).toInt - (fpToIntRound x).toInt).natAbs ≤ 1) ∧
  (∀ x : Word, 0 ≤ x.toInt → (fpToInt x).toInt = Int.fdiv x.toInt 16384) ∧
  (∀ x : Word, x.toInt < 0 → (fpToInt x).toInt = -Int.fdiv (-x.toInt) 16384)

/-- R72 (a) to (f). -/
def Obligations.AddSubLaws : Prop :=
  (∀ x, addFp x (intToFp 0#32) = x) ∧
  (∀ x, subFp x x = 0#32) ∧ intToFp 0#32 = 0#32 ∧
  (∀ x n, addMixed x n = addFp x (intToFp n)) ∧ (∀ x n, subMixed x n = subFp x (intToFp n)) ∧
  (∀ x y, addFp x y = addFp y x) ∧
  (∀ x y, subFp x y = wrap32 (-(subFp y x).toInt)) ∧
  ∀ x y, addFp (subFp x y) y = x

/-- R76 (a) to (e); (d) is multiplied out by 16384. -/
def Obligations.MultiplyLaws : Prop :=
  (∀ x, multFp x (intToFp 1#32) = x ∧ multFp x 16384#32 = x) ∧
  (∀ x y, multFp x y = multFp y x) ∧ (∀ x n : Word, multMixed x n = wrap32 (n.toInt * x.toInt)) ∧
  (∀ x n : Word, -131072 ≤ n.toInt → n.toInt ≤ 131071 → multMixed x n = multFp x (intToFp n)) ∧
  (∀ x y : Word, inI32 (tdiv (x.toInt * y.toInt) 16384) = true →
    (x.toInt * y.toInt - 16384 * (multFp x y).toInt).natAbs < 16384 ∧
    ((0 ≤ (multFp x y).toInt ∧ 16384 * (multFp x y).toInt ≤ x.toInt * y.toInt) ∨
      ((multFp x y).toInt ≤ 0 ∧ x.toInt * y.toInt ≤ 16384 * (multFp x y).toInt))) ∧
  ∀ x, multFp x 0#32 = 0#32 ∧ multMixed x 0#32 = 0#32

/-- R80 (a) to (f); (d) is multiplied out by the divisor. -/
def Obligations.DivideLaws : Prop :=
  (∀ x, divFp x (intToFp 1#32) = x ∧ divFp x 16384#32 = x ∧ divMixed x 1#32 = x) ∧
  (∀ x, x ≠ 0#32 → divFp x x = 16384#32) ∧
  (∀ x n : Word, n ≠ 0#32 → -131072 ≤ n.toInt → n.toInt ≤ 131071 → divMixed x n = divFp x (intToFp n)) ∧
  (∀ x y : Word, y ≠ 0#32 → inI32 (tdiv (x.toInt * 16384) y.toInt) = true →
    (x.toInt * 16384 - (divFp x y).toInt * y.toInt).natAbs < y.toInt.natAbs ∧
    ((divFp x y).toInt * y.toInt).natAbs ≤ (x.toInt * 16384).natAbs ∧
    0 ≤ ((divFp x y).toInt * y.toInt) * (x.toInt * 16384)) ∧
  fpToInt (divFp (multFp (intToFp 6#32) (intToFp 7#32)) (intToFp 7#32)) = 6#32 ∧
  (∀ (s t : State), s.opb = 0#32 → exec .divFp s = .next t ∨ exec .divMixed s = .next t → t.res = s.res)

/-! ### Commands and their faults -/

/-- R53: the result of a unary operation does not depend on OPB, and any OPB is legal. -/
def Obligations.UnaryOperationsIgnoreOperandB : Prop :=
  ∀ (i : Instr) (s : State), i = .intToFp ∨ i = .fpToInt ∨ i = .fpToIntRound →
    ∃ y, ∀ b, exec i { s with opb := b } = .next { s with opb := b, res := y }

/-- R21, R82, R83: FXCORE's three outputs. -/
def Obligations.FxcoreOutputs : Prop :=
  ∀ c a b : Word,
    ((fxcore c a b).ill = true ↔ 0xA < c.toNat) ∧
    ((fxcore c a b).dz = true ↔ (c = 0x9#32 ∨ c = 0xA#32) ∧ b = 0#32) ∧
    ((fxcore c a b).ill = true ∨ (fxcore c a b).dz = true → (fxcore c a b).y = 0#32) ∧
    ∀ i s t, decode c = .legal i → (fxcore c a b).dz = false → s.opa = a → s.opb = b → exec i s = .next t →
      t.res = (fxcore c a b).y

/-- R81, R90: a command leaves in the registers what FXCORE says, and changes nothing else; it always completes. -/
def Obligations.CommandAgreesWithFxcore : Prop :=
  ∀ (c : Word) (s : State),
    let o := fxcore c s.opa s.opb
    performCommand c s = .next
      (if o.ill = true then { s with ill := true } else if o.dz = true then { s with dz := true }
        else { s with res := o.y })

/-- R43, R81, R90: a CMD write is one step, which performs the command whole. The acknowledgement is the model's (log 2, 8). -/
def Obligations.CommandStepAgreesWithFxcore : Prop :=
  ∀ s a rest c, s.pending = .access a :: rest → a.writesAt s.platform 0x08 c →
    let o := fxcore c s.opa s.opb
    step s = .next { s with
      res := if o.ill || o.dz then s.res else o.y
      dz := s.dz || o.dz
      ill := s.ill || o.ill
      pending := rest
      responses := s.responses ++ [{ host := a.host, reply := .done }] }

/-- R85: every operation, on every operands but a division by 0, completes with a result and reports nothing. -/
def Obligations.OperationsCompleteWithoutReport : Prop :=
  ∀ i s, (i = .divFp ∨ i = .divMixed → s.opb ≠ 0#32) → ∃ y, exec i s = .next { s with res := y }

/-- R81 frame, over every command, legal or not: the operand registers, the platform and the bus are unchanged, and so is
every window register but RES and STATUS; and either STATUS is unchanged, or DZ is set and ILL and RES are unchanged
(R82), or ILL is set and DZ and RES are unchanged (R83). An operation, the command of a legal word, leaves ILL. -/
def Obligations.CommandFrame : Prop :=
  (∀ c s t, performCommand c s = .next t →
    t.opa = s.opa ∧ t.opb = s.opb ∧ t.platform = s.platform ∧ t.pending = s.pending ∧
    t.responses = s.responses ∧ t.cuts = s.cuts ∧
    (∀ r : WindowReg, r ≠ .res → r ≠ .status → readRegister r t = readRegister r s) ∧
    ((t.dz = s.dz ∧ t.ill = s.ill) ∨ (t.dz = true ∧ t.ill = s.ill ∧ t.res = s.res) ∨
      (t.ill = true ∧ t.dz = s.dz ∧ t.res = s.res))) ∧
  ∀ i s t, exec i s = .next t →
    t.opa = s.opa ∧ t.opb = s.opb ∧ t.ill = s.ill ∧ t.platform = s.platform ∧ t.pending = s.pending ∧
    t.responses = s.responses ∧ t.cuts = s.cuts ∧
    (t.dz = s.dz ∨ (t.dz = true ∧ t.res = s.res)) ∧
    (∀ r : WindowReg, r ≠ .res → r ≠ .status → readRegister r t = readRegister r s)

/-- R82: DivideByZero is raised by the two divisions on a zero divisor, whatever the dividend, and by nothing else; it sets
DZ and changes nothing else. -/
def Obligations.DivideByZeroRule : Prop :=
  (∀ s, s.opb = 0#32 → exec .divFp s = .next { s with dz := true } ∧ exec .divMixed s = .next { s with dz := true }) ∧
  (∀ i s t, exec i s = .next t → t.dz ≠ s.dz → (i = .divFp ∨ i = .divMixed) ∧ s.opb = 0#32 ∧ t.dz = true) ∧
  (∀ c a b, (fxcore c a b).dz = true ↔ (decode c = .legal .divFp ∨ decode c = .legal .divMixed) ∧ b = 0#32) ∧
  (∀ c a b, (fxcore c a b).dz = true → (fxcore c a b).y = 0#32)

/-- R83: IllegalCommand is raised by a CMD write whose word is illegal; it sets ILL and changes nothing else. -/
def Obligations.IllegalCommandRule : Prop :=
  (∀ c a b, 0xA < c.toNat → fxcore c a b = { y := 0#32, dz := false, ill := true }) ∧
  (∀ c s, (c.extractLsb' 4 28 ≠ 0#28 ∨ 0xB ≤ (c.extractLsb' 0 4).toNat) →
    performCommand c s = .next { s with ill := true }) ∧
  ∀ c s t, performCommand c s = .next t → t.ill ≠ s.ill →
    c.extractLsb' 4 28 ≠ 0#28 ∨ 0xB ≤ (c.extractLsb' 0 4).toNat

/-- R84, R37, R39: a malformed access changes no FXU state and returns no value; its host gets a bus error, and its program
is faulted if it stops on that (log 3); and a run stops for no other reason. -/
def Obligations.BusErrorRule : Prop :=
  (∀ s a rest, s.pending = .access a :: rest → a.malformed s.platform → a.onError = .stops →
    step s = .fault .busError) ∧
  (∀ s a rest, s.pending = .access a :: rest → a.malformed s.platform → a.onError = .goesOn →
    step s = .next { s with
      pending := rest
      responses := s.responses ++ [{ host := a.host, reply := .busError }] }) ∧
  (∀ s f, step s = .fault f → ∃ a rest, s.pending = .access a :: rest ∧ a.malformed s.platform ∧ a.onError = .stops) ∧
  ∀ s r, step s ≠ .refused r

/-- R86: a malformed access to CMD is a bus error and performs no command; an illegal word is never examined for division by
zero. -/
def Obligations.FaultPriority : Prop :=
  (∀ s a rest, s.pending = .access a :: rest → s.platform.base + 0x08 ≤ a.addr → a.addr < s.platform.base + 0x0C →
    a.malformed s.platform → a.onError = .goesOn →
    step s = .next { s with
      pending := rest
      responses := s.responses ++ [{ host := a.host, reply := .busError }] }) ∧
  (∀ s a rest, s.pending = .access a :: rest → a.writesAt s.platform 0x08 0x00000019#32 → s.opb = 0#32 →
    ∃ t, step s = .next t ∧ t.ill = true ∧ t.dz = s.dz ∧ t.res = s.res) ∧
  (∀ c a b, ¬ ((fxcore c a b).ill = true ∧ (fxcore c a b).dz = true)) ∧
  ∀ c a b, (fxcore c a b).dz = true → decode c = .legal .divFp ∨ decode c = .legal .divMixed

/-- R89: the FXU runs commands the same whatever STATUS holds, and both bits accumulate: over every command, legal or not, DZ
ends set exactly when it was set or the command divides by 0, and ILL exactly when it was set or the word is illegal. -/
def Obligations.StickyBitsStopNothing : Prop :=
  (∀ c s d e t, performCommand c s = .next t →
    ∃ u, performCommand c { s with dz := d, ill := e } = .next u ∧
      u.res = t.res ∧ u.opa = t.opa ∧ u.opb = t.opb ∧
      (u.dz = true ↔ d = true ∨ ((decode c = .legal .divFp ∨ decode c = .legal .divMixed) ∧ s.opb = 0#32)) ∧
      (u.ill = true ↔ e = true ∨ ∃ why, decode c = .illegal why)) ∧
  ∀ i s d e t, exec i s = .next t →
    ∃ u, exec i { s with dz := d, ill := e } = .next u ∧ u.res = t.res ∧ u.opa = t.opa ∧ u.opb = t.opb ∧ u.ill = e ∧
      (u.dz = true ↔ d = true ∨ ((i = .divFp ∨ i = .divMixed) ∧ s.opb = 0#32))

/-! ### The step and the register window -/

/-- R43, R81: when the next event writes a command word to CMD that decodes to i, the step is exec of i, at the state with
that event taken from the order and its write acknowledged. -/
def Obligations.StepRunsTheDecodedCommand : Prop :=
  (∀ s a rest c i, s.pending = .access a :: rest → a.writesAt s.platform 0x08 c → decode c = .legal i →
    step s = exec i { s with
      pending := rest
      responses := s.responses ++ [{ host := a.host, reply := .done }] }) ∧
  ∀ (s : State) (i : Instr), step (s.withFetchWord 32 (encode i).toNat)
    = exec i { s with responses := s.responses ++ [{ host := 0, reply := .done }] }

/-- R36, R38, R41: an admitted access moves the register of its offset, in one step. The answers are the model's (log 2). -/
def Obligations.AdmittedAccessesReachTheirRegister : Prop :=
  ([WindowReg.opa, .opb, .cmd, .res, .status].map WindowReg.offset = [0x00, 0x04, 0x08, 0x0C, 0x10]) ∧
  (∀ s a rest (r : WindowReg), s.pending = .access a :: rest → a.readsAt s.platform r.offset →
    step s = .next { s with
      pending := rest
      responses := s.responses ++ [{ host := a.host, reply := .data (readRegister r s) }] }) ∧
  ∀ s a rest v (r : WindowReg), s.pending = .access a :: rest → a.writesAt s.platform r.offset v →
    step s = writeRegister r v { s with
      pending := rest
      responses := s.responses ++ [{ host := a.host, reply := .done }] }

/-- R22 and R23: a write of an operand register stores the word, a read returns it, every command takes its operands from
them, no command writes them, reset value 0. -/
def Obligations.OperandRegistersRule : Prop :=
  WindowReg.opa.offset = 0x00 ∧ WindowReg.opb.offset = 0x04 ∧
  (∀ v s, writeRegister .opa v s = .next { s with opa := v }) ∧ (∀ s, readRegister .opa s = s.opa) ∧
  (∀ v s, writeRegister .opb v s = .next { s with opb := v }) ∧ (∀ s, readRegister .opb s = s.opb) ∧
  (∀ c s t, performCommand c s = .next t → t.opa = s.opa ∧ t.opb = s.opb) ∧
  (∀ (i : Instr) (s : State) (a b : Word), ∃ y d, exec i { s with opa := a, opb := b } = .next { s with opa := a, opb := b, res := y, dz := d } ∧
    (operation i a b = none → y = s.res ∧ d = true) ∧ (∀ z, operation i a b = some z → y = z ∧ d = s.dz)) ∧
  State.reset.opa = 0x00000000#32 ∧ State.reset.opb = 0x00000000#32

/-- From R24: CMD holds nothing. A write performs one command with that word; a read answers 0 and changes no register; and
nothing of the word is stored: CMD reads 0 after every command, and any two illegal words leave one and the same state.
The events and answers of the read are in the model's terms: log 1, log 2. -/
def Obligations.CommandRegisterRule : Prop :=
  WindowReg.cmd.offset = 0x08 ∧ (∀ s, readRegister .cmd s = 0x00000000#32) ∧
  (∀ c s, writeRegister .cmd c s = performCommand c s) ∧
  (∀ s a rest, s.pending = .access a :: rest → a.readsAt s.platform 0x08 →
    step s = .next { s with
      pending := rest
      responses := s.responses ++ [{ host := a.host, reply := .data 0x00000000#32 }] }) ∧
  (∀ c s t, performCommand c s = .next t → readRegister .cmd t = 0x00000000#32) ∧
  ∀ c c' s, 0xA < c.toNat → 0xA < c'.toNat → performCommand c s = performCommand c' s

/-- R25, in part: a read of RES returns it, a write is ignored, a faulting command leaves it, its reset value is 0. That it
holds the result of the most recent command is `ResultIsOfTheLatestCompletedCommand`. -/
def Obligations.ResultRegisterAccess : Prop :=
  WindowReg.res.offset = 0x0C ∧ (∀ s, readRegister .res s = s.res) ∧ (∀ v s, writeRegister .res v s = .next s) ∧
  (∀ c s t, performCommand c s = .next t → (fxcore c s.opa s.opb).dz = true ∨ (fxcore c s.opa s.opb).ill = true →
    t.res = s.res) ∧
  State.reset.res = 0x00000000#32

/-- R26, R29: the layout of STATUS, its write-1-to-clear bits and its reserved bits. -/
def Obligations.StatusRegisterRule : Prop :=
  WindowReg.status.offset = 0x10 ∧
  (∀ s, (readRegister .status s).getLsbD 0 = s.dz ∧ (readRegister .status s).getLsbD 1 = s.ill ∧
    ∀ k, 2 ≤ k → (readRegister .status s).getLsbD k = false) ∧
  (∀ v s, writeRegister .status v s = .next { s with
    dz := if v.getLsbD 0 then false else s.dz
    ill := if v.getLsbD 1 then false else s.ill }) ∧
  (∀ v w s, v.getLsbD 0 = w.getLsbD 0 → v.getLsbD 1 = w.getLsbD 1 →
    writeRegister .status v s = writeRegister .status w s) ∧
  State.reset.dz = false ∧ State.reset.ill = false

/-- R27: what sets DZ, what clears it, and that nothing else changes it. -/
def Obligations.DzChangesOnlyAsStated : Prop :=
  ∀ s t, step s = .next t →
    (∀ c, s.nextWrites 0x08 c → (fxcore c s.opa s.opb).dz = true → t.dz = true) ∧
    (∀ v, s.nextWrites 0x10 v → v.getLsbD 0 = true → t.dz = false) ∧
    (s.nextResets → t.dz = false) ∧
    ((∀ c, s.nextWrites 0x08 c → (fxcore c s.opa s.opb).dz = false) →
      (∀ v, s.nextWrites 0x10 v → v.getLsbD 0 = false) → ¬ s.nextResets → t.dz = s.dz)

/-- R28: what sets ILL, what clears it, and that nothing else changes it. -/
def Obligations.IllChangesOnlyAsStated : Prop :=
  ∀ s t, step s = .next t →
    (∀ c, s.nextWrites 0x08 c → (fxcore c s.opa s.opb).ill = true → t.ill = true) ∧
    (∀ v, s.nextWrites 0x10 v → v.getLsbD 1 = true → t.ill = false) ∧
    (s.nextResets → t.ill = false) ∧
    ((∀ c, s.nextWrites 0x08 c → (fxcore c s.opa s.opb).ill = false) →
      (∀ v, s.nextWrites 0x10 v → v.getLsbD 1 = false) → ¬ s.nextResets → t.ill = s.ill)

/-- R41: a read changes nothing, and two reads of one register with nothing between them return the same value. -/
def Obligations.ReadsHaveNoSideEffect : Prop :=
  (∀ s a rest, s.pending = .access a :: rest → a.op = .read → a.onError = .goesOn →
    ∃ new, step s = .next { s with pending := rest, responses := s.responses ++ new }) ∧
  (∀ s, readRegister .opa s = s.opa ∧ readRegister .opb s = s.opb ∧ readRegister .cmd s = 0x00000000#32 ∧
    readRegister .res s = s.res ∧ readRegister .status s = s.statusWord) ∧
  ∀ s a a' rest (r : WindowReg), s.pending = .access a :: .access a' :: rest → a.readsAt s.platform r.offset →
    a'.readsAt s.platform r.offset →
    stepN 2 s = .next { s with
      pending := rest
      responses := s.responses ++ [{ host := a.host, reply := .data (readRegister r s) },
        { host := a'.host, reply := .data (readRegister r s) }] }

/-- R42: writing an operand register or STATUS twice is writing it once; writing a command twice computes the same result;
and a repeated faulting command sets its bit again after a clear. -/
def Obligations.RepeatedWrites : Prop :=
  (∀ v s, writeRegister .res v s = .next s) ∧
  (∀ r v s t u, r ≠ .cmd → writeRegister r v s = .next t → writeRegister r v t = .next u → u = t) ∧
  (∀ c s t u, performCommand c s = .next t → performCommand c t = .next u → u = t) ∧
  (∀ c s t u, performCommand c s = .next t → (fxcore c s.opa s.opb).dz = true →
    performCommand c (t.writeStatus 0x00000003#32) = .next u → u.dz = true) ∧
  (∀ c s t u, performCommand c s = .next t → (fxcore c s.opa s.opb).ill = true →
    performCommand c (t.writeStatus 0x00000003#32) = .next u → u.ill = true)

/-- R35: outside its window the FXU does not respond. -/
def Obligations.NoResponseOutsideTheWindow : Prop :=
  ∀ s a rest, s.pending = .access a :: rest → (a.addr < s.platform.base ∨ s.platform.base + 32 ≤ a.addr) →
    step s = .next { s with pending := rest }

/-- R31, R34, R44: every step takes exactly one event from the order, adds at most one answer, and never changes the
platform's parameters. -/
def Obligations.EveryStepTakesOneEvent : Prop :=
  ∀ s t, step s = .next t →
    t.pending = s.pending.tail ∧ t.platform = s.platform ∧
    ∃ new, t.responses = s.responses ++ new ∧ new.length ≤ 1

/-! ### Whole runs -/

/-- A safe run reaches the end of its list of events. -/
def Obligations.SafeRunsComplete : Prop :=
  ∀ q s, safeRun s.platform q → ∃ t, serve q s = .next t ∧ t.pending = [] ∧ t.platform = s.platform

/-- R44, R22, R23: after any events, from any hosts, in any order, OPA and OPB hold what the latest write left. -/
def Obligations.OperandsHoldTheLatestWrite : Prop :=
  ∀ q s t, serve q s = .next t →
    t.opa = latestOperand s.platform 0x00 q s.opa ∧ t.opb = latestOperand s.platform 0x04 q s.opb

/-- R25, R44: after any events RES holds the result, on the latest operands before it, of the most recent command that
completed without a fault, or 0 if a reset came later, or what it held at first. -/
def Obligations.ResultIsOfTheLatestCompletedCommand : Prop :=
  (∀ s before e after t y, serve (before ++ e :: after) s = .next t → e.setsResult s before = some y →
    (∀ p e' r, after = p ++ e' :: r → e'.setsResult s (before ++ e :: p) = none) → t.res = y) ∧
  ∀ s q t, serve q s = .next t → (∀ p e r, q = p ++ e :: r → e.setsResult s p = none) → t.res = s.res

/-- R43, R44: with no reset, every access in the window is answered once, to its own host, in the total order. -/
def Obligations.EveryAccessIsAnsweredOnceInOrder : Prop :=
  ∀ q s t, serve q s = .next t → (∀ e ∈ q, ∃ a, e = .access a) →
    t.responses.map Response.host = s.responses.map Response.host ++ q.filterMap (BusEvent.answeredHost s.platform)

/-- From R102, R103, R105: the accesses of one operation, in the order of R102, from any state. The STATUS read is 0 exactly
when the command did not fault, and then the RES read is its result. R102 has the host read RES only if STATUS is 0;
here RES is read in both cases, and after a fault, when the STATUS read is 1, it is the older result (R105). That every
write is acknowledged, also a CMD write whose command faults, is the model's: log 2, log 8. -/
def Obligations.OneOperationInTheOrderOfR102 : Prop :=
  ∀ (s : State) (i : Instr) (a b : Word) (h : Nat) (re : HostReaction),
    let acc := fun (tr : Transaction) => BusEvent.access (tr.access s.platform h re)
    let q := [acc (.write 0x10 0x00000003#32), acc (.write 0x00 a)] ++
      (if i.unary then [] else [acc (.write 0x04 b)]) ++ [acc (.write 0x08 (encode i)), acc (.read 0x10), acc (.read 0x0C)]
    let zero := (i = .divFp ∨ i = .divMixed) ∧ b = 0#32
    ∃ t st r acks, serve q s = .next t ∧
      t.responses = s.responses ++ acks ++ [{ host := h, reply := .data st }, { host := h, reply := .data r }] ∧
      acks.length + 2 = q.length ∧ (∀ k ∈ acks, k = { host := h, reply := .done }) ∧
      (¬ zero → st = 0x00000000#32 ∧ r = (fxcore (encode i) a b).y) ∧
      (zero → st = 0x00000001#32 ∧ r = s.res)

/-- R48, R91, D17: the FXU does not know which host accesses it. Renaming the hosts renames the answers and changes
nothing else. -/
def Obligations.TheFxuDoesNotKnowTheHost : Prop :=
  ∀ (f : Nat → Nat) (s : State),
    match step s with
    | .next t => step (s.rename f) = .next (t.rename f)
    | .fault r => step (s.rename f) = .fault r
    | .refused r => step (s.rename f) = .refused r

/-- R9, R35, D9: nothing depends on where the window lies. -/
def Obligations.NothingDependsOnTheBaseAddress : Prop :=
  ∀ (k : Nat) (s : State),
    match step s with
    | .next t => step (s.move k) = .next (t.move k)
    | .fault r => step (s.move k) = .fault r
    | .refused r => step (s.move k) = .refused r

/-- The invariant holds after reset. -/
def Obligations.ResetMeetsTheInvariant : Prop := State.reset.Inv

/-- The invariant is kept by every step, from every state that meets it. -/
def Obligations.EveryStepKeepsTheInvariant : Prop :=
  ∀ s t, s.Inv → step s = .next t → t.Inv

/-! ### The notation of host programs -/

/-- R60: the expansions of the pseudo-instructions. -/
def Obligations.PseudoInstructionsExpand : Prop :=
  ∀ (fresh : HostVar) (i : Instr) (a b : AsmValue),
    (AsmStmt.cmd i).expand fresh = some [.wr (.named .cmd) (.hex (encode i))] ∧
    (i.unary = false → (AsmStmt.fxBinary i a b).expand fresh
      = some [.wr (.named .opa) a, .wr (.named .opb) b, .wr (.named .cmd) (.hex (encode i))]) ∧
    (i.unary = true → (AsmStmt.fxUnary i a).expand fresh
      = some [.wr (.named .opa) a, .wr (.named .cmd) (.hex (encode i))]) ∧
    (AsmStmt.mov .opa).expand fresh = some [.rd (.named .res) fresh, .wr (.named .opa) (.var fresh)] ∧
    (AsmStmt.mov .opb).expand fresh = some [.rd (.named .res) fresh, .wr (.named .opb) (.var fresh)] ∧
    AsmStmt.clrStatus.expand fresh = some [.wr (.named .status) (.hex 0x00000003#32)]

/-- R59: a literal is read exactly or refused: a decimal integer outside `i32` is refused, and an `fx` literal is the
integer r × 16384 in `i32` or is refused, never rounded. -/
def Obligations.LiteralsAreNeverRounded : Prop :=
  ∀ (vars : HostVars) (n digits : Int) (places : Nat) (w : Word),
    ((AsmValue.dec n).eval vars = some w ↔ w.toInt = n) ∧
    ((AsmValue.fx digits places).eval vars = some w ↔ w.toInt * 10 ^ places = digits * 16384)

/-- R61: the example of the rule, `FX ADD_FP 49152, 16384`, and that the text of a transaction in the window determines it. -/
def Obligations.TransactionTextIsFaithful : Prop :=
  (∀ vars fresh, ((AsmStmt.fxBinary .addFp (.dec 49152) (.dec 16384)).expand fresh).map
      (List.map fun st => (st.transaction vars).map Transaction.text)
    = some [some ['W', ' ', '0', '0', ' ', '0', '0', '0', '0', 'C', '0', '0', '0'],
        some ['W', ' ', '0', '4', ' ', '0', '0', '0', '0', '4', '0', '0', '0'],
        some ['W', ' ', '0', '8', ' ', '0', '0', '0', '0', '0', '0', '0', '3']]) ∧
  ∀ t u : Transaction,
    (∀ off v, t = .write off v → off < 32) → (∀ off, t = .read off → off < 32) →
    (∀ off v, u = .write off v → off < 32) → (∀ off, u = .read off → off < 32) →
    t.text = u.text → t = u
end

