-- ==== Sys2Proof/Laws/Arith.lean ====
section
/-! SUPPORT. The narrowing to 32 bits, said once. -/

namespace Sys2Proof.Machine

/-- The signed value of a narrowed integer is its balanced remainder modulo 2^32 (00_scope.md R14). -/
theorem wrap32_toInt (v : Int) : (wrap32 v).toInt = v.bmod (2 ^ 32) := by simp [wrap32]

/-- Two integers narrow to the same word exactly when they are congruent modulo 2^32. -/
theorem wrap32_eq_iff {v w : Int} : wrap32 v = wrap32 w ↔ (2 ^ 32 : Int) ∣ v - w := by
  rw [← BitVec.toInt_inj, wrap32_toInt, wrap32_toInt]
  simp only [Int.bmod_def]
  omega

/-- Narrowing loses nothing of a value in `i32`. -/
theorem wrap32_toInt_of_le {v : Int} (h : -2147483648 ≤ v) (h' : v ≤ 2147483647) : (wrap32 v).toInt = v := by
  rw [wrap32_toInt, Int.bmod_def]
  omega

/-- A word is its own narrowing. -/
@[simp] theorem wrap32_toInt_self (w : Word) : wrap32 w.toInt = w := BitVec.ofInt_toInt

/-- The promoted integer is congruent to n × 16384 (41_addsub.md R67). -/
theorem promote_congr (n : Word) : (2 ^ 32 : Int) ∣ n.toInt * 16384 - (promote n).toInt := by
  unfold promote Config.scale
  rw [wrap32_toInt]
  simp only [Int.bmod_def]
  omega

end Sys2Proof.Machine
end

