-- ==== Sys2Proof/Laws/State.lean ====
section
/-! SUPPORT. One lemma per field of State and per update of it, so that no proof unfolds a record update. -/

namespace Sys2Proof.Machine.State

variable (s : State)

@[simp] theorem writeResult_opa (y : Word) : (s.writeResult y).opa = s.opa := rfl
@[simp] theorem writeResult_opb (y : Word) : (s.writeResult y).opb = s.opb := rfl
@[simp] theorem writeResult_res (y : Word) : (s.writeResult y).res = y := rfl
@[simp] theorem writeResult_dz (y : Word) : (s.writeResult y).dz = s.dz := rfl
@[simp] theorem writeResult_ill (y : Word) : (s.writeResult y).ill = s.ill := rfl
@[simp] theorem writeResult_platform (y : Word) : (s.writeResult y).platform = s.platform := rfl
@[simp] theorem writeResult_pending (y : Word) : (s.writeResult y).pending = s.pending := rfl
@[simp] theorem writeResult_responses (y : Word) : (s.writeResult y).responses = s.responses := rfl
@[simp] theorem writeResult_cuts (y : Word) : (s.writeResult y).cuts = s.cuts := rfl

@[simp] theorem respond_opa (h : Nat) (r : Reply) : (s.respond h r).opa = s.opa := rfl
@[simp] theorem respond_opb (h : Nat) (r : Reply) : (s.respond h r).opb = s.opb := rfl
@[simp] theorem respond_res (h : Nat) (r : Reply) : (s.respond h r).res = s.res := rfl
@[simp] theorem respond_dz (h : Nat) (r : Reply) : (s.respond h r).dz = s.dz := rfl
@[simp] theorem respond_ill (h : Nat) (r : Reply) : (s.respond h r).ill = s.ill := rfl
@[simp] theorem respond_platform (h : Nat) (r : Reply) : (s.respond h r).platform = s.platform := rfl
@[simp] theorem respond_pending (h : Nat) (r : Reply) : (s.respond h r).pending = s.pending := rfl
@[simp] theorem respond_responses (h : Nat) (r : Reply) : (s.respond h r).responses = s.responses ++ [{ host := h, reply := r }] := rfl
@[simp] theorem respond_cuts (h : Nat) (r : Reply) : (s.respond h r).cuts = s.cuts := rfl

@[simp] theorem resetRegisters_opa : (s.resetRegisters).opa = 0#32 := rfl
@[simp] theorem resetRegisters_opb : (s.resetRegisters).opb = 0#32 := rfl
@[simp] theorem resetRegisters_res : (s.resetRegisters).res = 0#32 := rfl
@[simp] theorem resetRegisters_dz : (s.resetRegisters).dz = false := rfl
@[simp] theorem resetRegisters_ill : (s.resetRegisters).ill = false := rfl
@[simp] theorem resetRegisters_platform : (s.resetRegisters).platform = s.platform := rfl
@[simp] theorem resetRegisters_pending : (s.resetRegisters).pending = s.pending := rfl
@[simp] theorem resetRegisters_responses : (s.resetRegisters).responses = s.responses := rfl
@[simp] theorem resetRegisters_cuts : (s.resetRegisters).cuts = s.cuts := rfl

@[simp] theorem writeStatus_opa (v : Word) : (s.writeStatus v).opa = s.opa := rfl
@[simp] theorem writeStatus_opb (v : Word) : (s.writeStatus v).opb = s.opb := rfl
@[simp] theorem writeStatus_res (v : Word) : (s.writeStatus v).res = s.res := rfl
@[simp] theorem writeStatus_dz (v : Word) : (s.writeStatus v).dz = (s.dz && !v.getLsbD 0) := rfl
@[simp] theorem writeStatus_ill (v : Word) : (s.writeStatus v).ill = (s.ill && !v.getLsbD 1) := rfl
@[simp] theorem writeStatus_platform (v : Word) : (s.writeStatus v).platform = s.platform := rfl
@[simp] theorem writeStatus_pending (v : Word) : (s.writeStatus v).pending = s.pending := rfl
@[simp] theorem writeStatus_responses (v : Word) : (s.writeStatus v).responses = s.responses := rfl
@[simp] theorem writeStatus_cuts (v : Word) : (s.writeStatus v).cuts = s.cuts := rfl

@[simp] theorem raise_opa (f : CommandFault) : (s.raise f).opa = s.opa := by cases f <;> rfl
@[simp] theorem raise_opb (f : CommandFault) : (s.raise f).opb = s.opb := by cases f <;> rfl
@[simp] theorem raise_res (f : CommandFault) : (s.raise f).res = s.res := by cases f <;> rfl
@[simp] theorem raise_platform (f : CommandFault) : (s.raise f).platform = s.platform := by cases f <;> rfl
@[simp] theorem raise_pending (f : CommandFault) : (s.raise f).pending = s.pending := by cases f <;> rfl
@[simp] theorem raise_responses (f : CommandFault) : (s.raise f).responses = s.responses := by cases f <;> rfl
@[simp] theorem raise_cuts (f : CommandFault) : (s.raise f).cuts = s.cuts := by cases f <;> rfl
@[simp] theorem raise_divideByZero_dz : (s.raise .divideByZero).dz = true := rfl
@[simp] theorem raise_divideByZero_ill : (s.raise .divideByZero).ill = s.ill := rfl
@[simp] theorem raise_illegalCommand_dz : (s.raise .illegalCommand).dz = s.dz := rfl
@[simp] theorem raise_illegalCommand_ill : (s.raise .illegalCommand).ill = true := rfl

end Sys2Proof.Machine.State
end

