-- ==== Sys2Proof/Laws/Ops.lean ====
section
/-! SUPPORT. What each shared operation can do, said once: address decoding, the commands, the accesses and the step. -/

namespace Sys2Proof.Machine

/-! ### Address decoding -/

theorem windowOffset_eq_some {p : Platform} {addr off : Nat} :
    windowOffset p addr = some off ↔ addr = p.base + off ∧ off < 32 := by
  unfold windowOffset Config.windowSize
  split
  · simp only [Option.some.injEq]; omega
  · simp only [reduceCtorEq, false_iff]; omega

theorem windowOffset_eq_none {p : Platform} {addr : Nat} :
    windowOffset p addr = none ↔ addr < p.base ∨ p.base + 32 ≤ addr := by
  unfold windowOffset Config.windowSize
  split
  · simp only [reduceCtorEq, false_iff]; omega
  · simp only [true_iff]; omega

@[simp] theorem windowOffset_base_add (p : Platform) {off : Nat} (h : off < 32) :
    windowOffset p (p.base + off) = some off :=
  windowOffset_eq_some.2 ⟨rfl, h⟩

theorem registerAt_eq_some {off : Nat} {r : WindowReg} : registerAt off = some r ↔ off = r.offset := by
  constructor
  · intro h
    unfold registerAt at h
    split at h <;> cases h <;> rfl
  · rintro rfl
    cases r <;> rfl

theorem selectRegister_eq_some {off width : Nat} {r : WindowReg} :
    selectRegister off width = some r ↔ width = 4 ∧ off = r.offset := by
  unfold selectRegister
  split
  next h => simp [registerAt_eq_some, h.1]
  next h =>
    simp only [reduceCtorEq, false_iff]
    rintro ⟨hw, rfl⟩
    exact h ⟨hw, by cases r <;> rfl⟩

@[simp] theorem selectRegister_offset (r : WindowReg) : selectRegister r.offset 4 = some r :=
  selectRegister_eq_some.2 ⟨rfl, rfl⟩

theorem selectRegister_eq_none {off width : Nat} (h : off < 32) :
    selectRegister off width = none ↔ 0x14 ≤ off ∨ width ≠ 4 ∨ ¬ 4 ∣ off := by
  unfold selectRegister
  split
  next hw =>
    obtain ⟨rfl, hm⟩ := hw
    interval_cases off <;> simp [registerAt] at hm ⊢
  next hw => simp only [true_iff]; omega

theorem windowReg_offset_lt (r : WindowReg) : r.offset < 32 := by cases r <;> decide

/-! ### Commands -/

/-- Everything a legal command does: it writes its result to RES, or it raises DivideByZero. -/
theorem exec_eq (i : Instr) (s : State) :
    exec i s = match operation i s.opa s.opb with
      | some y => .next (s.writeResult y)
      | none => .next (s.raise .divideByZero) := by
  cases i <;> first
    | rfl
    | (by_cases hb : s.opb = 0#32 <;>
        simp [exec, execDivFp, execDivMixed, divideOrRaise, State.operandA, State.operandB, operation, hb])

theorem operation_eq_none {i : Instr} {a b : Word} : operation i a b = none ↔ i.divides = true ∧ b = 0#32 := by
  cases i <;> simp [operation, Instr.divides]

/-- A legal command always answers a next state, one of two. -/
theorem exec_cases {i : Instr} {s t : State} (h : exec i s = .next t) :
    (∃ y, operation i s.opa s.opb = some y ∧ t = s.writeResult y) ∨
      (i.divides = true ∧ s.opb = 0#32 ∧ t = s.raise .divideByZero) := by
  rw [exec_eq] at h
  split at h <;> cases h
  next y hy => exact .inl ⟨y, hy, rfl⟩
  next hn => exact .inr ⟨(operation_eq_none.1 hn).1, (operation_eq_none.1 hn).2, rfl⟩

/-- Everything a CMD write does to the state: it completes, or it raises one of the two faults. -/
theorem performCommand_cases {c : Word} {s t : State} (h : performCommand c s = .next t) :
    (∃ i y, decode c = .legal i ∧ operation i s.opa s.opb = some y ∧ t = s.writeResult y) ∨
      (∃ i, decode c = .legal i ∧ i.divides = true ∧ s.opb = 0#32 ∧ t = s.raise .divideByZero) ∨
      (∃ why, decode c = .illegal why ∧ t = s.raise .illegalCommand) := by
  unfold performCommand at h
  split at h
  next why hd => cases h; exact .inr (.inr ⟨why, hd, rfl⟩)
  next i hd =>
    rcases exec_cases h with ⟨y, hy, rfl⟩ | ⟨hi, hb, rfl⟩
    · exact .inl ⟨i, y, hd, hy, rfl⟩
    · exact .inr (.inl ⟨i, hd, hi, hb, rfl⟩)

/-! ### Accesses and steps -/

/-- Everything a write of a register can do. -/
theorem writeRegister_cases {r : WindowReg} {v : Word} {s t : State} (h : writeRegister r v s = .next t) :
    (r = .opa ∧ t = { s with opa := v }) ∨ (r = .opb ∧ t = { s with opb := v }) ∨
      (r = .cmd ∧ performCommand v s = .next t) ∨ (r = .res ∧ t = s) ∨ (r = .status ∧ t = s.writeStatus v) := by
  cases r <;> simp only [writeRegister, Host.Outcome.next.injEq] at h <;> simp [h]

/-- Everything an access can do: nothing outside the window, a bus error, a read, or a write. -/
theorem performAccess_cases {a : Access} {s t : State} (h : performAccess a s = .next t) :
    (windowOffset s.platform a.addr = none ∧ t = s) ∨
      (∃ off, windowOffset s.platform a.addr = some off ∧ selectRegister off a.width = none ∧
        a.onError = .goesOn ∧ t = s.respond a.host .busError) ∨
      (∃ r, windowOffset s.platform a.addr = some r.offset ∧ a.width = 4 ∧
        ((a.op = .read ∧ t = s.respond a.host (.data (readRegister r s))) ∨
          ∃ v, a.op = .write v ∧ writeRegister r v (s.respond a.host .done) = .next t)) := by
  unfold performAccess at h
  split at h
  next ho => cases h; exact .inl ⟨ho, rfl⟩
  next off ho =>
    split at h
    next hs =>
      unfold raiseBusError at h
      split at h <;> cases h
      next hr => exact .inr (.inl ⟨off, ho, hs, hr, rfl⟩)
    next r hs =>
      obtain ⟨hw, rfl⟩ := selectRegister_eq_some.1 hs
      refine .inr (.inr ⟨r, ho, hw, ?_⟩)
      unfold performAdmitted at h
      split at h
      next hop => cases h; exact .inl ⟨hop, rfl⟩
      next v hop => exact .inr ⟨v, hop, h⟩

/-- An access to a register of the map is admitted. -/
theorem performAccess_admitted {a : Access} {s : State} (r : WindowReg) (hw : a.width = 4)
    (ha : a.addr = s.platform.base + r.offset) : performAccess a s = performAdmitted r a s := by
  simp only [performAccess, ha, hw, windowOffset_base_add _ (windowReg_offset_lt r), selectRegister_offset]

@[simp] theorem step_nil {s : State} (h : s.pending = []) : step s = .next s := by simp only [step, h]

@[simp] theorem step_cons {s : State} {e : BusEvent} {rest : List BusEvent} (h : s.pending = e :: rest) :
    step s = performEvent e { s with pending := rest } := by simp only [step, h]

/-- Everything a step can do: nothing, or its first event. -/
theorem step_cases {s t : State} (h : step s = .next t) :
    (s.pending = [] ∧ t = s) ∨
      (∃ a rest, s.pending = .access a :: rest ∧ performAccess a { s with pending := rest } = .next t) ∨
      (∃ cut rest, s.pending = .reset cut :: rest ∧ t = performReset cut { s with pending := rest }) := by
  unfold step at h
  split at h
  next hp => cases h; exact .inl ⟨hp, rfl⟩
  next e rest hp =>
    cases e with
    | access a => exact .inr (.inl ⟨a, rest, hp, h⟩)
    | reset cut => cases h; exact .inr (.inr ⟨cut, rest, hp, rfl⟩)

/-- Reset leaves the registers of R98 and the queue alone, and answers at most the access it cuts. -/
theorem performReset_spec (cut : Option Access) (s : State) :
    ∃ k new, performReset cut s = { s.resetRegisters with responses := s.responses ++ new, cuts := s.cuts + k } ∧
      ∀ r ∈ new, ∃ a, cut = some a ∧ r.host = a.host := by
  cases cut with
  | none => exact ⟨0, [], by simp [performReset, State.resetRegisters], by simp⟩
  | some a =>
    simp only [performReset, answerCut]
    split
    · exact ⟨0, [], by simp [State.resetRegisters], by simp⟩
    · exact ⟨1, [], by simp, by simp⟩
    next r _ _ => exact ⟨1, [{ host := a.host, reply := r }], by simp [State.respond], by simp⟩

end Sys2Proof.Machine
end

