-- ==== Sys2Proof/Laws/PerInstr.lean ====
section
/-! SUPPORT. The per-instruction family RoundTrip: the decoder reads an instruction back from its own word. -/

namespace Sys2Proof.Laws

/-- Decoding the encoding of an instruction gives it back (30_encoding.md R51, R58). -/
def RoundTrip.Statement (i : Instr) : Prop := decode (encode i) = .legal i

theorem RoundTrip.intToFp : RoundTrip.Statement .intToFp := by unfold RoundTrip.Statement; decide
theorem RoundTrip.fpToInt : RoundTrip.Statement .fpToInt := by unfold RoundTrip.Statement; decide
theorem RoundTrip.fpToIntRound : RoundTrip.Statement .fpToIntRound := by unfold RoundTrip.Statement; decide
theorem RoundTrip.addFp : RoundTrip.Statement .addFp := by unfold RoundTrip.Statement; decide
theorem RoundTrip.addMixed : RoundTrip.Statement .addMixed := by unfold RoundTrip.Statement; decide
theorem RoundTrip.subFp : RoundTrip.Statement .subFp := by unfold RoundTrip.Statement; decide
theorem RoundTrip.subMixed : RoundTrip.Statement .subMixed := by unfold RoundTrip.Statement; decide
theorem RoundTrip.multFp : RoundTrip.Statement .multFp := by unfold RoundTrip.Statement; decide
theorem RoundTrip.multMixed : RoundTrip.Statement .multMixed := by unfold RoundTrip.Statement; decide
theorem RoundTrip.divFp : RoundTrip.Statement .divFp := by unfold RoundTrip.Statement; decide
theorem RoundTrip.divMixed : RoundTrip.Statement .divMixed := by unfold RoundTrip.Statement; decide

end Sys2Proof.Laws
end

