-- ==== Sys2Proof/Tests/Slice0.lean ====
section
/-! SUPPORT. The model's own tests. Expected values are those of spec/95_test_vectors.md (sections cited), never the
model's own answers. -/

open Sys2Proof Sys2Proof.Machine

namespace Sys2Proof.Tests

/-- A machine with operands a and b and a stale result 7. -/
def machine (a b : Word) : State := { State.reset with opa := a, opb := b, res := 7#32 }

/-- A machine on a platform with two hosts and its window at 0x20, with events to come. -/
def busy (q : List BusEvent) : State :=
  { State.reset with
    opa := 49152#32, opb := 16384#32, res := 7#32, dz := true
    platform := { window := 1, hosts := 2 }, pending := q }

/-- An access of host 1 at an offset of the window of `busy`. -/
def access (off width : Nat) (op : AccessOp) (re : HostReaction) : Access :=
  { host := 1, addr := 32 + off, width := width, op := op, onError := re }

/-- A write of `v` at an offset, by a host that goes on after a bus error. -/
def wr (off : Nat) (v : Word) : Access := access off 4 (.write v) .goesOn

/-- A read at an offset. -/
def rd (off : Nat) : Access := access off 4 .read .goesOn

/-- One field of the next state, if there is one. -/
def field {α : Type} (f : State → α) : Outcome → Option α
  | .next t => some (f t)
  | .fault _ => none
  | .refused _ => none

/-- RES after a command on operands a and b. -/
def resultOf (i : Instr) (a b : Word) : Option Word := field State.res (exec i (machine a b))

/-- The five architectural values after a step: (OPA, OPB, RES, STATUS) as section 3 writes a state. -/
def regsOf (o : Outcome) : Option (Word × Word × Word × Word) := field (fun t => (t.opa, t.opb, t.res, t.statusWord)) o

/-! ### WellFormed smoke tests: each check refuses an ill-formed term -/

theorem test_word_reserved_op_ill_formed : legalCommandWord 0x0000000B#32 = false := by decide
theorem test_word_reserved_field_ill_formed : legalCommandWord 0x00000013#32 = false := by decide
theorem test_platform_without_host_ill_formed : Platform.wellFormed { window := 0, hosts := 0 } = false := by decide
theorem test_access_of_absent_host_ill_formed :
    Access.wellFormed { window := 1, hosts := 1 } (rd 0x00) = false := by decide
theorem test_cut_of_absent_host_ill_formed :
    BusEvent.wellFormed { window := 1, hosts := 1 } (.reset (some (rd 0x00))) = false := by decide
theorem test_every_instruction_well_formed : ∀ i : Instr, i.wellFormed = true := by intro i; cases i <;> rfl

/-! ### Decoding: words written out bit by bit from 30_encoding.md R50 and R51, RSVD = 28 zeros then OP -/

theorem test_decode_int_to_fp : decode 0b00000000000000000000000000000000#32 = .legal .intToFp := by decide
theorem test_decode_fp_to_int : decode 0b00000000000000000000000000000001#32 = .legal .fpToInt := by decide
theorem test_decode_fp_to_int_round : decode 0b00000000000000000000000000000010#32 = .legal .fpToIntRound := by decide
theorem test_decode_add_fp : decode 0b00000000000000000000000000000011#32 = .legal .addFp := by decide
theorem test_decode_add_mixed : decode 0b00000000000000000000000000000100#32 = .legal .addMixed := by decide
theorem test_decode_sub_fp : decode 0b00000000000000000000000000000101#32 = .legal .subFp := by decide
theorem test_decode_sub_mixed : decode 0b00000000000000000000000000000110#32 = .legal .subMixed := by decide
theorem test_decode_mult_fp : decode 0b00000000000000000000000000000111#32 = .legal .multFp := by decide
theorem test_decode_mult_mixed : decode 0b00000000000000000000000000001000#32 = .legal .multMixed := by decide
theorem test_decode_div_fp : decode 0b00000000000000000000000000001001#32 = .legal .divFp := by decide
theorem test_decode_div_mixed : decode 0b00000000000000000000000000001010#32 = .legal .divMixed := by decide
theorem test_decode_reserved_ops : [0xB#32, 0xC#32, 0xD#32, 0xE#32, 0xF#32].map decode
    = List.replicate 5 (.illegal .reservedOp) := by decide
theorem test_decode_reserved_field : decode 0x00000013#32 = .illegal .reservedField := by decide
theorem test_decode_table_word : decodeTableWord 32 7 = some .multFp ∧ decodeTableWord 32 0x80000003 = none := by decide

/-! ### Instructions: 95_test_vectors.md sections 2.1 to 2.4 -/

theorem test_int_to_fp_negative : resultOf .intToFp (-3#32) 0#32 = some 0xFFFF4000#32 := by decide
theorem test_int_to_fp_wraps : resultOf .intToFp (-131073#32) 5#32 = some 0x7FFFC000#32 := by decide
theorem test_fp_to_int_toward_zero : resultOf .fpToInt (-16385#32) 0#32 = some (-1#32) := by decide
theorem test_fp_to_int_most_negative : resultOf .fpToInt 0x80000000#32 0#32 = some (-131072#32) := by decide
theorem test_fp_to_int_round_tie : resultOf .fpToIntRound (-57344#32) 0#32 = some (-4#32) := by decide
theorem test_fp_to_int_round_offset_wraps : resultOf .fpToIntRound 0x7FFFE000#32 0#32 = some 0xFFFE0000#32 := by decide
theorem test_add_fp : resultOf .addFp 49152#32 16384#32 = some 65536#32 := by decide
theorem test_add_fp_wraps : resultOf .addFp 0x80000000#32 (-1#32) = some 0x7FFFFFFF#32 := by decide
theorem test_add_mixed_scales_b : resultOf .addMixed 49152#32 2#32 = some 81920#32 := by decide
theorem test_add_mixed_wraps : resultOf .addMixed 0x7FFFFFFF#32 1#32 = some 0x80003FFF#32 := by decide
theorem test_sub_fp : resultOf .subFp 49152#32 16384#32 = some 32768#32 := by decide
theorem test_sub_fp_wraps : resultOf .subFp 0#32 0x80000000#32 = some 0x80000000#32 := by decide
theorem test_sub_mixed_negative : resultOf .subMixed 8192#32 1#32 = some 0xFFFFE000#32 := by decide
theorem test_sub_mixed_wraps : resultOf .subMixed 0x80000000#32 1#32 = some 0x7FFFC000#32 := by decide
theorem test_mult_fp_widens : resultOf .multFp 65536#32 49152#32 = some 196608#32 := by decide
theorem test_mult_fp_toward_zero : resultOf .multFp (-1#32) 1#32 = some 0#32 := by decide
theorem test_mult_mixed_negative : resultOf .multMixed (-49152#32) 3#32 = some 0xFFFDC000#32 := by decide
theorem test_mult_mixed_wraps : resultOf .multMixed 131072#32 16384#32 = some 0x80000000#32 := by decide
theorem test_div_fp_toward_zero : resultOf .divFp (-16384#32) 49152#32 = some 0xFFFFEAAB#32 := by decide
theorem test_div_fp_by_zero : field (fun t => (t.res, t.dz, t.ill)) (exec .divFp (machine 5#32 0#32))
    = some (7#32, true, false) := by decide
theorem test_div_mixed_toward_zero : resultOf .divMixed 7#32 (-2#32) = some (-3#32) := by decide
theorem test_div_mixed_overflow : resultOf .divMixed 0x80000000#32 (-1#32) = some 0x80000000#32 := by decide

/-! ### The register level: 95_test_vectors.md section 3 -/

theorem test_first_after_reset_divides_by_zero :
    regsOf (step (State.reset.withFetchWord 32 0x9)) = some (0#32, 0#32, 0#32, 0x00000001#32) := by decide
theorem test_command_keeps_sticky_bit :
    regsOf (step (busy [.access (wr 0x08 0x3#32)])) = some (49152#32, 16384#32, 65536#32, 0x1#32) := by decide
theorem test_illegal_command_sets_ill :
    regsOf (step (busy [.access (wr 0x08 0xC#32)])) = some (49152#32, 16384#32, 7#32, 0x3#32) := by decide
theorem test_status_write_clears_dz_only :
    regsOf (step { busy [.access (wr 0x10 0x1#32)] with ill := true })
      = some (49152#32, 16384#32, 7#32, 0x2#32) := by decide
theorem test_status_write_of_reserved_bits_ignored :
    regsOf (step (busy [.access (wr 0x10 0xFFFFFFFC#32)])) = some (49152#32, 16384#32, 7#32, 0x1#32) := by decide
theorem test_result_write_ignored :
    regsOf (step (busy [.access (wr 0x0C 0x12345678#32)])) = some (49152#32, 16384#32, 7#32, 0x1#32) := by decide
theorem test_command_read_returns_zero :
    field State.responses (step (busy [.access (rd 0x08)])) = some [{ host := 1, reply := .data 0#32 }] := by decide
theorem test_reserved_offset_is_bus_error :
    field State.responses (step (busy [.access (wr 0x14 1#32)])) = some [{ host := 1, reply := .busError }] := by decide
theorem test_narrow_write_is_bus_error :
    regsOf (step (busy [.access (access 0x00 2 (.write 9#32) .goesOn)]))
      = some (49152#32, 16384#32, 7#32, 0x1#32) := by decide
theorem test_misaligned_read_is_bus_error :
    field State.responses (step (busy [.access (rd 0x02)])) = some [{ host := 1, reply := .busError }] := by decide
theorem test_bus_error_stops_a_host_that_stops :
    step (busy [.access (access 0x14 4 .read .stops)]) = .fault .busError := by rfl
theorem test_reset_clears : regsOf (step (busy [.reset none])) = some (0#32, 0#32, 0#32, 0#32) := by decide

/-! ### The notation: 30_encoding.md R59 and R61 -/

theorem test_fx_literal : (AsmValue.fx 35 1).eval [] = some 57344#32 := by decide
theorem test_fx_literal_never_rounded : (AsmValue.fx 1 1).eval [] = none := by decide
theorem test_transaction_text : (Transaction.write 0x00 0x0000C000#32).text
    = ['W', ' ', '0', '0', ' ', '0', '0', '0', '0', 'C', '0', '0', '0'] := by decide

/-! ### Witnesses: for each obligation with hypotheses, a state and operands that meet them -/

theorem witness_ResetStepClearsAndGoesOn :
    (busy [.reset none, .access (rd 0x00)]).pending = .reset none :: [.access (rd 0x00)] ∧
      ∃ t, step (busy [.reset none, .access (rd 0x00)]) = .next t := ⟨rfl, _, rfl⟩

theorem witness_ResetOverridesTheAccessItCuts :
    (busy [.reset (some (wr 0x08 0x3#32))]).pending = .reset (some (wr 0x08 0x3#32)) :: [] ∧
      ∃ u, performAccess (wr 0x08 0x3#32) { busy [] with pending := [] } = .next u := ⟨rfl, _, rfl⟩

theorem witness_WrapIsTheCongruentWord :
    (2 ^ 32 : Int) ∣ 2147483648 - (0x80000000#32).toInt ∧ (32 ≤ 32 ∧ 32 < 64) ∧ (32 ≤ 63 ∧ 63 < 64) := by decide

theorem witness_TdivRoundsTowardZero : (2 : Int) ≠ 0 ∧ (-1 : Int) ≠ 0 := by decide

theorem witness_DividerDatapathComputesDivFp : (1#32 : Word) ≠ 0#32 ∧ (-1#32 : Word) ≠ 0#32 := by decide

/-- `yields` takes the operands of a state as its hypotheses; every pair of operands has a state. -/
theorem witness_yields (a b : Word) : (machine a b).opa = a ∧ (machine a b).opb = b := ⟨rfl, rfl⟩

theorem witness_FpToIntRule : (-16385#32 : Word).toInt < 0 ∧ ¬ (16384 : Int) ∣ (-16385#32 : Word).toInt := by decide

theorem witness_FpToIntRoundRule :
    (-2147475456 ≤ (0x80002000#32 : Word).toInt ∧ (0x80002000#32 : Word).toInt ≤ 2147475455) ∧
      (-2147475456 ≤ (0x7FFFDFFF#32 : Word).toInt ∧ (0x7FFFDFFF#32 : Word).toInt ≤ 2147475455) ∧
      2147475456 ≤ (0x7FFFE000#32 : Word).toInt ∧ (0x80001FFF#32 : Word).toInt ≤ -2147475457 ∧
      2 * ((fpToIntRound 8192#32).toInt * 16384 - (8192#32 : Word).toInt).natAbs = 16384 := by decide

theorem witness_MultFpRule :
    (-1#32 : Word).toInt * (1#32 : Word).toInt < 0 ∧ ¬ (16384 : Int) ∣ (-1#32 : Word).toInt * (1#32 : Word).toInt := by
  decide

theorem witness_DivFpRule_DivMixedRule : (machine 5#32 0#32).opb = 0#32 ∧ (machine 5#32 1#32).opb ≠ 0#32 := by decide

theorem witness_ConversionLaws :
    (-131072 ≤ (-131072#32 : Word).toInt ∧ (-131072#32 : Word).toInt ≤ 131071) ∧
      (-131071 ≤ (131071#32 : Word).toInt ∧ (131071#32 : Word).toInt ≤ 131071) ∧
      (-2147475456 ≤ (8192#32 : Word).toInt ∧ (8192#32 : Word).toInt ≤ 2147475455) ∧
      0 ≤ (0#32 : Word).toInt ∧ (-1#32 : Word).toInt < 0 := by decide

theorem witness_MultiplyLaws :
    (-131072 ≤ (-131072#32 : Word).toInt ∧ (-131072#32 : Word).toInt ≤ 131071) ∧
      inI32 (tdiv ((-1#32 : Word).toInt * (16384#32 : Word).toInt) 16384) = true := by decide

theorem witness_DivideLaws :
    (-1#32 : Word) ≠ 0#32 ∧ (-131072 ≤ (-1#32 : Word).toInt ∧ (-1#32 : Word).toInt ≤ 131071) ∧
      inI32 (tdiv ((16384#32 : Word).toInt * 16384) (-49152#32 : Word).toInt) = true ∧ (machine 5#32 0#32).opb = 0#32 := by
  decide

theorem witness_DivideLaws_writes_nothing : ∃ t, exec .divMixed (machine 5#32 0#32) = .next t := ⟨_, rfl⟩

theorem witness_UnaryOperationsIgnoreOperandB : Instr.fpToInt = .intToFp ∨ Instr.fpToInt = .fpToInt ∨
    Instr.fpToInt = .fpToIntRound := by decide

theorem witness_FxcoreOutputs :
    decode 0x9#32 = .legal .divFp ∧ (fxcore 0x9#32 5#32 1#32).dz = false ∧ (fxcore 0x9#32 5#32 0#32).dz = true ∧
      (fxcore 0xB#32 5#32 0#32).ill = true := by decide

theorem witness_FxcoreOutputs_runs : ∃ t, exec .divFp (machine 5#32 1#32) = .next t := ⟨_, rfl⟩

/-- Also the witness of StepRunsTheDecodedCommand, with 0x3 the word of ADD_FP. -/
theorem witness_CommandStepAgreesWithFxcore :
    (busy [.access (wr 0x08 0x3#32)]).pending = .access (wr 0x08 0x3#32) :: [] ∧
      (wr 0x08 0x3#32).writesAt { window := 1, hosts := 2 } 0x08 0x3#32 ∧ decode 0x3#32 = .legal .addFp :=
  ⟨rfl, ⟨rfl, rfl, rfl⟩, rfl⟩

theorem witness_OperationsCompleteWithoutReport :
    (Instr.divFp = .divFp ∨ Instr.divFp = .divMixed → (machine 0x80000000#32 1#32).opb ≠ 0#32) := by decide

/-- A command that completes, one that divides by 0 and one with an illegal word; for the operations, the first two. -/
theorem witness_CommandFrame_StickyBitsStopNothing :
    (∃ t, performCommand 0x3#32 (machine 1#32 2#32) = .next t) ∧
      (∃ t, performCommand 0x9#32 (machine 1#32 0#32) = .next t) ∧
      (∃ t, performCommand 0xB#32 (machine 1#32 2#32) = .next t) ∧
      (∃ t, exec .addFp (machine 1#32 2#32) = .next t) ∧ ∃ t, exec .divFp (machine 1#32 0#32) = .next t :=
  ⟨⟨_, rfl⟩, ⟨_, rfl⟩, ⟨_, rfl⟩, ⟨_, rfl⟩, ⟨_, rfl⟩⟩

theorem witness_DivideByZeroRule :
    ∃ t, (machine 5#32 0#32).opb = 0#32 ∧ exec .divFp (machine 5#32 0#32) = .next t ∧ t.dz ≠ (machine 5#32 0#32).dz :=
  ⟨_, rfl, rfl, by decide⟩

theorem witness_IllegalCommandRule :
    0xA < (0xB#32 : Word).toNat ∧ (0x13#32 : Word).extractLsb' 4 28 ≠ 0#28 ∧ 0xB ≤ ((0xB#32 : Word).extractLsb' 0 4).toNat := by
  decide

theorem witness_IllegalCommandRule_raised :
    ∃ t, performCommand 0xB#32 (machine 1#32 1#32) = .next t ∧ t.ill ≠ (machine 1#32 1#32).ill := ⟨_, rfl, by decide⟩

theorem witness_BusErrorRule :
    (access 0x14 4 .read .stops).malformed { window := 1, hosts := 2 } ∧
      (access 0x1F 1 .read .goesOn).malformed { window := 1, hosts := 2 } ∧
      (access 0x10 8 .read .goesOn).malformed { window := 1, hosts := 2 } ∧
      (access 0x02 4 .read .goesOn).malformed { window := 1, hosts := 2 } := by
  refine ⟨?_, ?_, ?_, ?_⟩ <;> unfold Access.malformed <;> decide

theorem witness_BusErrorRule_stops : step (busy [.access (access 0x14 4 .read .stops)]) = .fault .busError := rfl

theorem witness_FaultPriority :
    (access 0x08 2 (.write 0xF#32) .goesOn).malformed { window := 1, hosts := 2 } ∧
      (access 0x0B 4 (.write 0xF#32) .goesOn).malformed { window := 1, hosts := 2 } ∧
      (wr 0x08 0x00000019#32).writesAt { window := 1, hosts := 2 } 0x08 0x00000019#32 ∧
      ({ busy [.access (wr 0x08 0x00000019#32)] with opb := 0#32 }).opb = 0#32 := by
  refine ⟨?_, ?_, ⟨rfl, rfl, rfl⟩, rfl⟩ <;> unfold Access.malformed <;> decide

theorem witness_AdmittedAccessesReachTheirRegister :
    (rd 0x10).readsAt { window := 1, hosts := 2 } WindowReg.status.offset ∧
      (wr 0x00 1#32).writesAt { window := 1, hosts := 2 } WindowReg.opa.offset 1#32 :=
  ⟨⟨rfl, rfl, rfl⟩, ⟨rfl, rfl, rfl⟩⟩

theorem witness_OperandRegistersRule :
    (∃ t, performCommand 0x3#32 (machine 1#32 1#32) = .next t) ∧ operation .divFp 1#32 0#32 = none ∧
      operation .divFp 16384#32 16384#32 = some 16384#32 := ⟨⟨_, rfl⟩, by decide, by decide⟩

theorem witness_CommandRegisterRule :
    (busy [.access (rd 0x08)]).pending = .access (rd 0x08) :: [] ∧ (rd 0x08).readsAt { window := 1, hosts := 2 } 0x08 ∧
      (∃ t, performCommand 0x3#32 (machine 1#32 2#32) = .next t) ∧
      0xA < (0xB#32 : Word).toNat ∧ 0xA < (0xFFFFFFFF#32 : Word).toNat :=
  ⟨rfl, ⟨rfl, rfl, rfl⟩, ⟨_, rfl⟩, by decide, by decide⟩

theorem witness_ResultRegisterAccess :
    ∃ t, performCommand 0x9#32 (machine 1#32 0#32) = .next t ∧ (fxcore 0x9#32 1#32 0#32).dz = true :=
  ⟨_, rfl, by decide⟩

theorem witness_StatusRegisterRule :
    (0x1#32 : Word).getLsbD 0 = (0xFFFFFFFD#32 : Word).getLsbD 0 ∧
      (0x1#32 : Word).getLsbD 1 = (0xFFFFFFFD#32 : Word).getLsbD 1 := by decide

/-- The four clauses: a command that raises, a STATUS write that clears, a reset, and an event that does neither. -/
theorem witness_DzChangesOnlyAsStated :
    (∃ t, step { busy [.access (wr 0x08 0x9#32)] with opb := 0#32 } = .next t) ∧
      ({ busy [.access (wr 0x08 0x9#32)] with opb := 0#32 }).nextWrites 0x08 0x9#32 ∧
      (fxcore 0x9#32 49152#32 0#32).dz = true ∧
      (∃ t, step (busy [.access (wr 0x10 0x1#32)]) = .next t) ∧
      (busy [.access (wr 0x10 0x1#32)]).nextWrites 0x10 0x1#32 ∧ (0x1#32 : Word).getLsbD 0 = true ∧
      (∃ t, step (busy [.reset none]) = .next t) ∧ (busy [.reset none]).nextResets :=
  ⟨⟨_, rfl⟩, ⟨_, _, rfl, rfl, rfl, rfl⟩, by decide, ⟨_, rfl⟩, ⟨_, _, rfl, rfl, rfl, rfl⟩, by decide, ⟨_, rfl⟩,
    ⟨_, _, rfl⟩⟩

theorem witness_IllChangesOnlyAsStated :
    (∃ t, step (busy [.access (wr 0x08 0xB#32)]) = .next t) ∧
      (busy [.access (wr 0x08 0xB#32)]).nextWrites 0x08 0xB#32 ∧ (fxcore 0xB#32 49152#32 16384#32).ill = true ∧
      (∃ t, step (busy [.access (wr 0x10 0x2#32)]) = .next t) ∧
      (busy [.access (wr 0x10 0x2#32)]).nextWrites 0x10 0x2#32 ∧ (0x2#32 : Word).getLsbD 1 = true :=
  ⟨⟨_, rfl⟩, ⟨_, _, rfl, rfl, rfl, rfl⟩, by decide, ⟨_, rfl⟩, ⟨_, _, rfl, rfl, rfl, rfl⟩, by decide⟩

/-- The clause of both that says nothing else changes the bit: with no event pending none of the causes is there. -/
theorem witness_nothing_else_changes_a_bit :
    step (busy []) = .next (busy []) ∧ (∀ off v, ¬ (busy []).nextWrites off v) ∧ ¬ (busy []).nextResets := by
  refine ⟨rfl, ?_, ?_⟩
  · rintro off v ⟨a, rest, h, -⟩; cases h
  · rintro ⟨cut, rest, h⟩; cases h

theorem witness_ReadsHaveNoSideEffect :
    (busy [.access (rd 0x0C), .access (rd 0x0C)]).pending = .access (rd 0x0C) :: .access (rd 0x0C) :: [] ∧
      (rd 0x0C).readsAt { window := 1, hosts := 2 } WindowReg.res.offset ∧ (rd 0x0C).op = .read ∧
      (rd 0x0C).onError = .goesOn := ⟨rfl, ⟨rfl, rfl, rfl⟩, rfl, rfl⟩

theorem witness_RepeatedWrites :
    (∃ t u, writeRegister .status 1#32 (machine 1#32 1#32) = .next t ∧ writeRegister .status 1#32 t = .next u) ∧
      (∃ t u, performCommand 0x9#32 (machine 1#32 0#32) = .next t ∧ performCommand 0x9#32 t = .next u ∧
        (fxcore 0x9#32 1#32 0#32).dz = true ∧ (performCommand 0x9#32 (t.writeStatus 0x00000003#32) = .next u)) ∧
      ∃ t u, performCommand 0xB#32 (machine 1#32 0#32) = .next t ∧ (fxcore 0xB#32 1#32 0#32).ill = true ∧
        performCommand 0xB#32 (t.writeStatus 0x00000003#32) = .next u :=
  ⟨⟨_, _, rfl, rfl⟩, ⟨_, _, rfl, rfl, by decide, rfl⟩, ⟨_, _, rfl, by decide, rfl⟩⟩

theorem witness_NoResponseOutsideTheWindow :
    (wr 0x20 1#32).addr = 64 ∧ (busy [.access (wr 0x20 1#32)]).platform.base + 32 ≤ (wr 0x20 1#32).addr ∧
      ({ wr 0 1#32 with addr := 31 } : Access).addr < (busy []).platform.base := by decide

theorem witness_EveryStepTakesOneEvent : ∃ t, step (busy [.access (rd 0x00)]) = .next t := ⟨_, rfl⟩

theorem witness_SafeRunsComplete :
    safeRun { window := 1, hosts := 2 } [.access (wr 0x14 1#32), .reset none] := by
  simp [safeRun, BusEvent.harmless, wr, access]

/-- Also the witness of ResultIsOfTheLatestCompletedCommand's second clause, and of EveryAccessIsAnsweredOnceInOrder. -/
theorem witness_OperandsHoldTheLatestWrite :
    (∃ t, serve [.access (wr 0x00 1#32), .access (rd 0x00)] (busy []) = .next t) ∧
      (∀ e ∈ [BusEvent.access (wr 0x00 1#32), .access (rd 0x00)], ∃ a, e = .access a) ∧
      (BusEvent.access (wr 0x00 1#32)).setsResult (busy []) [] = none := by
  refine ⟨⟨_, rfl⟩, ?_, rfl⟩
  intro e he
  simp only [List.mem_cons, List.not_mem_nil, or_false] at he
  rcases he with rfl | rfl <;> exact ⟨_, rfl⟩

theorem witness_ResultIsOfTheLatestCompletedCommand :
    (∃ t, serve ([.access (wr 0x00 16384#32)] ++ .access (wr 0x08 0x3#32) :: []) (busy []) = .next t) ∧
      (BusEvent.access (wr 0x08 0x3#32)).setsResult (busy []) [.access (wr 0x00 16384#32)] = some 32768#32 :=
  ⟨⟨_, rfl⟩, by decide⟩

theorem witness_OneOperationInTheOrderOfR102 :
    (Instr.divFp = .divFp ∨ Instr.divFp = .divMixed) ∧ (0#32 : Word) = 0#32 ∧
      ¬ ((Instr.divFp = .divFp ∨ Instr.divFp = .divMixed) ∧ (1#32 : Word) = 0#32) := by decide

theorem witness_EveryStepKeepsTheInvariant :
    (busy [.access (rd 0x00)]).Inv ∧ ∃ t, step (busy [.access (rd 0x00)]) = .next t :=
  ⟨⟨rfl, by decide, by decide⟩, _, rfl⟩

theorem witness_PseudoInstructionsExpand : Instr.addFp.unary = false ∧ Instr.intToFp.unary = true := by decide

theorem witness_TransactionTextIsFaithful :
    (∀ off v, Transaction.write 31 1#32 = .write off v → off < 32) ∧
      (∀ off, Transaction.write 31 1#32 = .read off → off < 32) ∧
      (Transaction.write 31 1#32).text = (Transaction.write 31 1#32).text := by
  refine ⟨?_, ?_, rfl⟩
  · intro off v h; cases h; decide
  · intro off h; cases h

end Sys2Proof.Tests
end

/-! ## Proofs: the arithmetic primitives of 00_scope.md (R8, R14, R15) -/

section

namespace Sys2Proof.Machine

/-! ### `wrap32` and `sext64` (R14) -/

/-- An integer and its narrowed word are congruent modulo 2^32. -/
theorem dvd_sub_wrap32_toInt (v : Int) : (2 ^ 32 : Int) ∣ v - (wrap32 v).toInt :=
  wrap32_eq_iff.mp (wrap32_toInt_self (wrap32 v)).symm

/-- Every word's signed value lies in `i32` (R13). -/
theorem word_toInt_bounds (w : Word) : -2147483648 ≤ w.toInt ∧ w.toInt ≤ 2147483647 :=
  ⟨w.le_toInt, Int.le_of_lt_add_one w.toInt_lt⟩

/-- A word congruent to `v` modulo 2^32 is `wrap32 v`. -/
theorem eq_wrap32_of_dvd {v : Int} {w : Word} (h : (2 ^ 32 : Int) ∣ v - w.toInt) : w = wrap32 v :=
  calc w = wrap32 w.toInt := (wrap32_toInt_self w).symm
    _ = wrap32 v := (wrap32_eq_iff.mpr h).symm

/-- The low 32 bits of a wider pattern are its signed value narrowed: the narrowing step of the 64-bit data path. -/
theorem setWidth_eq_wrap32_toInt {k : Nat} (hk : 32 ≤ k) (x : BitVec k) : x.setWidth 32 = wrap32 x.toInt := by
  have hdvd : 2 ^ 32 ∣ 2 ^ k := Nat.pow_dvd_pow 2 hk
  rw [← BitVec.toInt_inj, BitVec.toInt_setWidth, wrap32_toInt, BitVec.toInt_eq_toNat_bmod, Int.bmod_bmod_of_dvd hdvd]

/-- Reducing to `k ≥ 32` bits first does not change the narrowed word. -/
theorem wrap32_ofInt_toInt {k : Nat} (hk : 32 ≤ k) (v : Int) : wrap32 (BitVec.ofInt k v).toInt = wrap32 v := by
  have hdvd : 2 ^ 32 ∣ 2 ^ k := Nat.pow_dvd_pow 2 hk
  rw [← BitVec.toInt_inj, wrap32_toInt, wrap32_toInt, BitVec.toInt_ofInt, Int.bmod_bmod_of_dvd hdvd]

/-- The narrowing of a summand is absorbed by the narrowing of the sum. -/
theorem wrap32_add_wrap32_toInt (a b : Int) : wrap32 (a + (wrap32 b).toInt) = wrap32 (a + b) := by
  have hb := dvd_sub_wrap32_toInt b
  exact wrap32_eq_iff.mpr (by omega)

/-- The narrowing of a factor is absorbed by the narrowing of the product. -/
theorem wrap32_mul_wrap32_toInt (a b : Int) : wrap32 (a * (wrap32 b).toInt) = wrap32 (a * b) := by
  refine (wrap32_eq_iff.mpr ?_).symm
  rw [← mul_sub]
  exact (dvd_sub_wrap32_toInt b).mul_left a

/-- Sign extension keeps the signed value. -/
@[simp] theorem sext64_toInt (w : Word) : (sext64 w).toInt = w.toInt := BitVec.toInt_signExtend_of_le (by decide)

/-- Bits 63 to 32 of a sign-extended word are copies of its bit 31. -/
theorem sext64_getLsbD_high (w : Word) {k : Nat} (hk : 32 ≤ k) (hk' : k < 64) :
    (sext64 w).getLsbD k = w.getLsbD 31 := by
  rw [sext64, BitVec.getLsbD_signExtend, if_neg (Nat.not_lt.mpr hk), BitVec.msb_eq_getLsbD_last, decide_eq_true hk',
    Bool.true_and]

/-- Settles O6: uniqueness, the low bits at any width and the ring laws all follow from `wrap32` being one
representative per class modulo 2^32. -/
theorem wrapIsTheCongruentWord : Obligations.WrapIsTheCongruentWord := by
  refine ⟨dvd_sub_wrap32_toInt, fun v => word_toInt_bounds (wrap32 v), fun _ _ => eq_wrap32_of_dvd, ?_,
    wrap32_add_wrap32_toInt, wrap32_mul_wrap32_toInt, sext64_toInt, fun w _ => sext64_getLsbD_high w⟩
  intro v k hk
  rw [setWidth_eq_wrap32_toInt hk, wrap32_ofInt_toInt hk]

/-! ### `tdiv` (R15) -/

/-- The magnitude of a truncated quotient is the quotient of the magnitudes. -/
theorem tdiv_natAbs (p q : Int) : (tdiv p q).natAbs = p.natAbs / q.natAbs := Int.natAbs_tdiv p q

/-- A truncated quotient is nonnegative when the operands do not have opposite signs. -/
theorem tdiv_nonneg_of_not_opposite {p q : Int} (h : ¬ ((p < 0 ∧ 0 < q) ∨ (0 < p ∧ q < 0))) : 0 ≤ tdiv p q := by
  have hsigns : (0 ≤ p ∧ 0 ≤ q) ∨ (p ≤ 0 ∧ q ≤ 0) := by omega
  obtain ⟨hp, hq⟩ | ⟨hp, hq⟩ := hsigns
  · exact Int.tdiv_nonneg hp hq
  · exact Int.tdiv_nonneg_of_nonpos_of_nonpos hp hq

/-- A truncated quotient of operands with opposite signs is at most 0. -/
theorem tdiv_nonpos_of_opposite {p q : Int} (h : (p < 0 ∧ 0 < q) ∨ (0 < p ∧ q < 0)) : tdiv p q ≤ 0 := by
  obtain ⟨hp, hq⟩ | ⟨hp, hq⟩ := h
  · have hneg : 0 ≤ (-p).tdiv q := Int.tdiv_nonneg (by omega) hq.le
    rw [Int.neg_tdiv] at hneg
    unfold tdiv
    omega
  · exact Int.tdiv_nonpos_of_nonneg_of_nonpos hp.le hq.le

/-- A truncated quotient is negative exactly when the signs are opposite and the magnitude is not 0. -/
theorem tdiv_neg_iff (p q : Int) :
    tdiv p q < 0 ↔ ((p < 0 ∧ 0 < q) ∨ (0 < p ∧ q < 0)) ∧ p.natAbs / q.natAbs ≠ 0 := by
  rw [← tdiv_natAbs, Int.natAbs_ne_zero]
  constructor
  · intro hneg
    exact ⟨by_contra fun h => (tdiv_nonneg_of_not_opposite h).not_gt hneg, hneg.ne⟩
  · rintro ⟨hopp, hne⟩
    exact lt_of_le_of_ne (tdiv_nonpos_of_opposite hopp) hne

/-- Settles O7: the magnitude by `tdiv_natAbs`, the sign by `tdiv_neg_iff`, and the rule's two examples. -/
theorem tdivRoundsTowardZero : Obligations.TdivRoundsTowardZero :=
  ⟨fun p q _ => ⟨tdiv_natAbs p q, tdiv_neg_iff p q⟩, by decide, by decide⟩

/-! ### The 64-bit intermediates (R8) -/

/-- A word's magnitude is at most 2^31. -/
theorem word_natAbs_toInt_le (w : Word) : w.toInt.natAbs ≤ 2 ^ 31 := by
  have hw := word_toInt_bounds w
  omega

/-- The exact product of two words has magnitude at most 2^62. -/
theorem word_mul_natAbs_le (a b : Word) : (a.toInt * b.toInt).natAbs ≤ 2 ^ 62 :=
  calc (a.toInt * b.toInt).natAbs = a.toInt.natAbs * b.toInt.natAbs := Int.natAbs_mul ..
    _ ≤ 2 ^ 31 * 2 ^ 31 := Nat.mul_le_mul (word_natAbs_toInt_le a) (word_natAbs_toInt_le b)
    _ = 2 ^ 62 := by decide

/-- The exact scaled dividend has magnitude at most 2^45. -/
theorem word_mul_scale_natAbs_le (a : Word) : (a.toInt * 16384).natAbs ≤ 2 ^ 45 := by
  have ha := word_natAbs_toInt_le a
  omega

/-- A 64-bit product whose exact value stays below 2^63 in magnitude does not overflow. -/
theorem toInt_mul_of_natAbs_lt {x y : BitVec 64} (h : (x.toInt * y.toInt).natAbs < 2 ^ 63) :
    (x * y).toInt = x.toInt * y.toInt := by
  rw [BitVec.toInt_mul]
  exact Int.bmod_eq_of_le (by omega) (by omega)

/-- The 64-bit product is the exact product. -/
@[simp] theorem product64_toInt (a b : Word) : (product64 a b).toInt = a.toInt * b.toInt := by
  have hle := word_mul_natAbs_le a b
  rw [← sext64_toInt a, ← sext64_toInt b] at hle ⊢
  exact toInt_mul_of_natAbs_lt (hle.trans_lt (by decide))

/-- The scale constant at 64 bits denotes 2^14. -/
@[simp] theorem scale64_toInt : scale64.toInt = 16384 := by decide

/-- The 64-bit scaled dividend is the exact scaled dividend. -/
@[simp] theorem scaledDividend64_toInt (a : Word) : (scaledDividend64 a).toInt = a.toInt * 16384 := by
  have hle := word_mul_scale_natAbs_le a
  rw [← sext64_toInt a, ← scale64_toInt] at hle ⊢
  exact toInt_mul_of_natAbs_lt (hle.trans_lt (by decide))

/-- Settles O8: the bounds come from each word's magnitude, and an exact value below 2^63 is what the 64-bit
multiplication returns. -/
theorem widenedIntermediatesAreExact : Obligations.WidenedIntermediatesAreExact := fun a b =>
  ⟨word_mul_natAbs_le a b, product64_toInt a b, word_mul_scale_natAbs_le a, scaledDividend64_toInt a⟩

end Sys2Proof.Machine
end

/-! ## Proofs: the registers, FXCORE and the two sticky bits (10_state.md) -/

section

namespace Sys2Proof.Machine

/-! ### The decoder by its two fields (R50, R51, R55, R58) -/

/-- A command word is its RSVD field above its OP field. -/
theorem rsvdField_append_opField (c : Word) : rsvdField c ++ opField c = c := by
  unfold rsvdField opField
  rw [BitVec.extractLsb'_append_extractLsb'_eq_extractLsb' (by decide)]
  exact BitVec.extractLsb'_eq_self

/-- The value of a command word in terms of its two fields. -/
theorem word_toNat_eq_fields (c : Word) : c.toNat = 16 * (rsvdField c).toNat + (opField c).toNat := by
  have h : (rsvdField c).toNat <<< 4 ||| (opField c).toNat = c.toNat := by
    rw [← BitVec.toNat_append, rsvdField_append_opField]
  rw [← h, ← Nat.shiftLeft_add_eq_or_of_lt (opField c).isLt, Nat.shiftLeft_eq, Nat.mul_comm]

/-- An OP value decodes to an operation exactly when it is that operation's own. -/
theorem decodeOp_eq_legal_iff {op : BitVec 4} {i : Instr} : decodeOp op = .legal i ↔ op = opValue i := by
  revert op
  cases i <;> decide

/-- The reserved OP values are those above 0xA. -/
theorem decodeOp_illegal_iff {op : BitVec 4} : (∃ why, decodeOp op = .illegal why) ↔ 0xA < op.toNat := by
  constructor
  · rintro ⟨why, h⟩
    revert op
    cases why <;> decide
  · intro h
    refine ⟨.reservedOp, ?_⟩
    revert op
    decide

/-- Every operation is read back from its own word. -/
@[simp] theorem decode_encode : (i : Instr) → decode (encode i) = .legal i
  | .intToFp => Laws.RoundTrip.intToFp
  | .fpToInt => Laws.RoundTrip.fpToInt
  | .fpToIntRound => Laws.RoundTrip.fpToIntRound
  | .addFp => Laws.RoundTrip.addFp
  | .addMixed => Laws.RoundTrip.addMixed
  | .subFp => Laws.RoundTrip.subFp
  | .subMixed => Laws.RoundTrip.subMixed
  | .multFp => Laws.RoundTrip.multFp
  | .multMixed => Laws.RoundTrip.multMixed
  | .divFp => Laws.RoundTrip.divFp
  | .divMixed => Laws.RoundTrip.divMixed

/-- The decoder reads an operation exactly from that operation's one word. -/
theorem decode_eq_legal_iff {c : Word} {i : Instr} : decode c = .legal i ↔ c = encode i := by
  refine ⟨fun h => ?_, fun h => h ▸ decode_encode i⟩
  unfold decode at h
  split at h
  next => cases h
  next hr =>
    rw [← rsvdField_append_opField c, not_not.mp hr, decodeOp_eq_legal_iff.mp h]
    rfl

/-- The illegal words are exactly those above 0xA. -/
theorem decode_illegal_iff {c : Word} : (∃ why, decode c = .illegal why) ↔ 0xA < c.toNat := by
  have hc := word_toNat_eq_fields c
  unfold decode
  split
  next hr =>
    have hpos : (rsvdField c).toNat ≠ 0 := fun h => hr (BitVec.eq_of_toNat_eq h)
    exact ⟨fun _ => by omega, fun _ => ⟨_, rfl⟩⟩
  next hr =>
    rw [decodeOp_illegal_iff, hc, not_not.mp hr]
    simp

/-- The words that decode to a division are 0x9 and 0xA. -/
theorem decode_divides_iff {c : Word} :
    (∃ i, decode c = .legal i ∧ i.divides = true) ↔ c = 0x9#32 ∨ c = 0xA#32 := by
  constructor
  · rintro ⟨i, hd, hi⟩
    rw [decode_eq_legal_iff.mp hd]
    cases i with
    | divFp => exact .inl rfl
    | divMixed => exact .inr rfl
    | _ => cases hi
  · rintro (rfl | rfl)
    · exact ⟨.divFp, decode_encode .divFp, rfl⟩
    · exact ⟨.divMixed, decode_encode .divMixed, rfl⟩

/-! ### FXCORE (R21): one equation per outcome of a command -/

theorem fxcore_of_illegal {c : Word} {why : IllegalWord} (hd : decode c = .illegal why) (a b : Word) :
    fxcore c a b = { y := 0#32, dz := false, ill := true } := by
  simp only [fxcore, hd]

theorem fxcore_of_operation_none {c a b : Word} {i : Instr} (hd : decode c = .legal i) (ho : operation i a b = none) :
    fxcore c a b = { y := 0#32, dz := true, ill := false } := by
  simp only [fxcore, hd, ho]

theorem fxcore_of_operation_some {c a b y : Word} {i : Instr} (hd : decode c = .legal i)
    (ho : operation i a b = some y) : fxcore c a b = { y := y, dz := false, ill := false } := by
  simp only [fxcore, hd, ho]

/-- Everything FXCORE can answer. -/
theorem fxcore_cases (c a b : Word) :
    (∃ why, decode c = .illegal why ∧ fxcore c a b = { y := 0#32, dz := false, ill := true }) ∨
      (∃ i, decode c = .legal i ∧ operation i a b = none ∧ fxcore c a b = { y := 0#32, dz := true, ill := false }) ∨
      ∃ i y, decode c = .legal i ∧ operation i a b = some y ∧ fxcore c a b = { y := y, dz := false, ill := false } := by
  cases hd : decode c with
  | illegal why => exact .inl ⟨why, rfl, fxcore_of_illegal hd a b⟩
  | legal i =>
    cases ho : operation i a b with
    | none => exact .inr (.inl ⟨i, rfl, ho, fxcore_of_operation_none hd ho⟩)
    | some y => exact .inr (.inr ⟨i, y, rfl, ho, fxcore_of_operation_some hd ho⟩)

/-- FXCORE says ill exactly for the words the decoder calls illegal. -/
theorem fxcore_ill_iff {c a b : Word} : (fxcore c a b).ill = true ↔ ∃ why, decode c = .illegal why := by
  obtain ⟨why, hd, hf⟩ | ⟨i, hd, -, hf⟩ | ⟨i, y, hd, -, hf⟩ := fxcore_cases c a b <;> simp [hd, hf]

/-- FXCORE says dz exactly for a division with operand B 0. -/
theorem fxcore_dz_iff {c a b : Word} :
    (fxcore c a b).dz = true ↔ (∃ i, decode c = .legal i ∧ i.divides = true) ∧ b = 0#32 := by
  obtain ⟨why, hd, hf⟩ | ⟨i, hd, ho, hf⟩ | ⟨i, y, hd, ho, hf⟩ := fxcore_cases c a b
  · simp [hd, hf]
  · obtain ⟨hi, hb⟩ := operation_eq_none.mp ho
    rw [hf]
    simp [hd, hi, hb]
  · have hno : ¬ (i.divides = true ∧ b = 0#32) := fun h => nomatch ho.symm.trans (operation_eq_none.mpr h)
    simpa [hd, hf] using hno

/-- On a fault y is 0. -/
theorem fxcore_y_of_fault {c a b : Word} (h : (fxcore c a b).ill = true ∨ (fxcore c a b).dz = true) :
    (fxcore c a b).y = 0#32 := by
  obtain ⟨_, -, hf⟩ | ⟨_, -, -, hf⟩ | ⟨_, _, -, -, hf⟩ := fxcore_cases c a b
  · rw [hf]
  · rw [hf]
  · simp [hf] at h

/-- Without a division by 0, a legal command leaves FXCORE's y in RES. -/
theorem exec_res_eq_fxcore_y {c : Word} {i : Instr} {s t : State} (hd : decode c = .legal i)
    (hdz : (fxcore c s.opa s.opb).dz = false) (h : exec i s = .next t) : t.res = (fxcore c s.opa s.opb).y := by
  rw [exec_eq] at h
  cases ho : operation i s.opa s.opb with
  | none => simp [fxcore_of_operation_none hd ho] at hdz
  | some y =>
    rw [ho] at h
    cases h
    rw [fxcore_of_operation_some hd ho, State.writeResult_res]

/-- Settles O27: each output read off the outcome of the command, the faults by the decoder's illegal words and by the
two divisions' own words. -/
theorem fxcoreOutputs : Obligations.FxcoreOutputs := by
  intro c a b
  refine ⟨fxcore_ill_iff.trans decode_illegal_iff, ?_, fxcore_y_of_fault, ?_⟩
  · rw [fxcore_dz_iff, decode_divides_iff]
  · rintro i s t hd hdz rfl rfl h
    exact exec_res_eq_fxcore_y hd hdz h

/-! ### The operand registers (R22, R23) -/

/-- No command writes an operand register. -/
theorem performCommand_operands {c : Word} {s t : State} (h : performCommand c s = .next t) :
    t.opa = s.opa ∧ t.opb = s.opb := by
  obtain ⟨_, _, -, -, rfl⟩ | ⟨_, -, -, -, rfl⟩ | ⟨_, -, rfl⟩ := performCommand_cases h <;> simp

/-- Settles O39: the accesses by the register map, the frame by `performCommand_operands`, and the operands by `exec_eq`,
whose two outcomes are the two of `operation`. -/
theorem operandRegistersRule : Obligations.OperandRegistersRule := by
  refine ⟨rfl, rfl, fun _ _ => rfl, fun _ => rfl, fun _ _ => rfl, fun _ => rfl,
    fun _ _ _ => performCommand_operands, ?_, rfl, rfl⟩
  intro i s a b
  rw [exec_eq]
  cases ho : operation i a b with
  | none => exact ⟨s.res, true, rfl, fun _ => ⟨rfl, rfl⟩, fun _ hz => (nomatch hz)⟩
  | some y => exact ⟨y, s.dz, rfl, fun hn => (nomatch hn), fun z hz => ⟨Option.some.inj hz, rfl⟩⟩

/-! ### STATUS (R26, R29) -/

theorem statusWord_getLsbD_zero (s : State) : s.statusWord.getLsbD 0 = s.dz := by
  rw [State.statusWord, BitVec.getLsbD_append]
  simp

theorem statusWord_getLsbD_one (s : State) : s.statusWord.getLsbD 1 = s.ill := by
  rw [State.statusWord, BitVec.getLsbD_append, BitVec.getLsbD_append]
  simp

/-- The reserved bits read 0. -/
theorem statusWord_getLsbD_reserved (s : State) {k : Nat} (hk : 2 ≤ k) : s.statusWord.getLsbD k = false := by
  have hdz : ¬ k < 1 := by omega
  have hill : ¬ k - 1 < 1 := by omega
  simp only [State.statusWord, BitVec.getLsbD_append, hdz, hill, if_false, BitVec.getLsbD_zero]

/-- Write 1 to clear, in the words of R26. -/
theorem writeStatus_eq_ite (v : Word) (s : State) : s.writeStatus v = { s with
    dz := if v.getLsbD 0 then false else s.dz
    ill := if v.getLsbD 1 then false else s.ill } := by
  unfold State.writeStatus
  cases v.getLsbD 0 <;> cases v.getLsbD 1 <;> simp

/-- Only bits 0 and 1 of the written word matter. -/
theorem writeStatus_congr {v w : Word} (s : State) (hdz : v.getLsbD 0 = w.getLsbD 0)
    (hill : v.getLsbD 1 = w.getLsbD 1) : s.writeStatus v = s.writeStatus w := by
  unfold State.writeStatus
  rw [hdz, hill]

/-- Settles O42: the layout bit by bit, and the write as two conditional clears. -/
theorem statusRegisterRule : Obligations.StatusRegisterRule :=
  ⟨rfl, fun s => ⟨statusWord_getLsbD_zero s, statusWord_getLsbD_one s, fun _ => statusWord_getLsbD_reserved s⟩,
    fun v s => congrArg Host.Outcome.next (writeStatus_eq_ite v s),
    fun _ _ s hdz hill => congrArg Host.Outcome.next (writeStatus_congr s hdz hill), rfl, rfl⟩

/-! ### What the next event writes -/

theorem windowReg_offset_injective : Function.Injective WindowReg.offset := fun r r' h =>
  Option.some.inj <| calc some r = selectRegister r.offset 4 := (selectRegister_offset r).symm
    _ = some r' := by rw [h, selectRegister_offset]

section NextEvent

variable {s : State} {a : Access} {rest : List BusEvent} {off : Nat} {v : Word}

theorem nextWrites_of_access (hp : s.pending = .access a :: rest) :
    s.nextWrites off v ↔ a.writesAt s.platform off v := by
  refine ⟨?_, fun hw => ⟨a, rest, hp, hw⟩⟩
  rintro ⟨a', rest', hp', hw⟩
  rw [hp] at hp'
  cases hp'
  exact hw

theorem not_nextResets_of_access (hp : s.pending = .access a :: rest) : ¬ s.nextResets := by
  rintro ⟨cut, rest', hp'⟩
  rw [hp] at hp'
  cases hp'

theorem nextWrites_not_nextResets (h : s.nextWrites off v) : ¬ s.nextResets := by
  obtain ⟨a, rest, hp, -⟩ := h
  exact not_nextResets_of_access hp

/-- The next event writes one word to one register. -/
theorem nextWrites_unique {r r' : WindowReg} {v' : Word} (h : s.nextWrites r.offset v)
    (h' : s.nextWrites r'.offset v') : r = r' ∧ v = v' := by
  obtain ⟨a, rest, hp, hop, -, haddr⟩ := h
  obtain ⟨hop', -, haddr'⟩ := (nextWrites_of_access hp).mp h'
  have hoff : r.offset = r'.offset := by omega
  exact ⟨windowReg_offset_injective hoff, AccessOp.write.inj (hop.symm.trans hop')⟩

/-- A write of a register is a write to its offset in the window. -/
theorem writesAt_offset_iff {p : Platform} {r : WindowReg} :
    a.writesAt p r.offset v ↔ a.op = .write v ∧ a.width = 4 ∧ windowOffset p a.addr = some r.offset := by
  unfold Access.writesAt
  rw [windowOffset_eq_some, and_iff_left (windowReg_offset_lt r)]

end NextEvent

/-! ### What a step does to the registers -/

/-- Everything a step does to the registers: it writes one, or resets them, or leaves them alone. -/
theorem step_register_cases {s t : State} (h : step s = .next t) :
    (∃ r v rest rs, s.nextWrites r.offset v ∧
        writeRegister r v { s with pending := rest, responses := rs } = .next t) ∨
      (s.nextResets ∧ ∃ rest rs k, t = { s.resetRegisters with pending := rest, responses := rs, cuts := k }) ∨
      ((∀ (r : WindowReg) v, ¬ s.nextWrites r.offset v) ∧ ¬ s.nextResets ∧
        ∃ rest rs, t = { s with pending := rest, responses := rs }) := by
  obtain ⟨hp, rfl⟩ | ⟨a, rest, hp, ha⟩ | ⟨cut, rest, hp, rfl⟩ := step_cases h
  · refine .inr (.inr ⟨?_, ?_, _, _, rfl⟩)
    · rintro r v ⟨_, _, hp', -⟩; simp [hp] at hp'
    · rintro ⟨_, _, hp'⟩; simp [hp] at hp'
  · have hwr (r : WindowReg) (v : Word) := (nextWrites_of_access hp).trans (writesAt_offset_iff (r := r) (v := v))
    have hnr := not_nextResets_of_access hp
    obtain ⟨ho, rfl⟩ | ⟨off, ho, hs, -, rfl⟩ | ⟨r, ho, hw, ⟨hop, rfl⟩ | ⟨v, hop, hv⟩⟩ := performAccess_cases ha
    · refine .inr (.inr ⟨fun r v hn => ?_, hnr, _, _, rfl⟩)
      obtain ⟨-, -, ho'⟩ := (hwr r v).mp hn
      exact nomatch ho.symm.trans ho'
    · refine .inr (.inr ⟨fun r v hn => ?_, hnr, _, _, rfl⟩)
      obtain ⟨-, hw, ho'⟩ := (hwr r v).mp hn
      have hoff : off = r.offset := Option.some.inj (ho.symm.trans ho')
      simp [hoff, hw] at hs
    · refine .inr (.inr ⟨fun r v hn => ?_, hnr, _, _, rfl⟩)
      obtain ⟨hop', -, -⟩ := (hwr r v).mp hn
      exact nomatch hop.symm.trans hop'
    · exact .inl ⟨r, v, rest, _, (hwr r v).mpr ⟨hop, hw, ho⟩, hv⟩
  · obtain ⟨k, new, hr, -⟩ := performReset_spec cut { s with pending := rest }
    exact .inr (.inl ⟨⟨cut, rest, hp⟩, rest, _, _, hr⟩)

/-! ### The two sticky bits (R27, R28) -/

/-- A command sets the bits FXCORE says and clears none. -/
theorem performCommand_stickyBits {c : Word} {s t : State} (h : performCommand c s = .next t) :
    t.dz = (s.dz || (fxcore c s.opa s.opb).dz) ∧ t.ill = (s.ill || (fxcore c s.opa s.opb).ill) := by
  obtain ⟨i, y, hd, ho, rfl⟩ | ⟨i, hd, hi, hb, rfl⟩ | ⟨why, hd, rfl⟩ := performCommand_cases h
  · simp [fxcore_of_operation_some hd ho]
  · simp [fxcore_of_operation_none hd (operation_eq_none.mpr ⟨hi, hb⟩)]
  · simp [fxcore_of_illegal hd]

/-- What a write of a register makes of a sticky bit `b` that a command word sets when `raises` says so, and that a word
written to STATUS clears when `clears` says so. -/
def WindowReg.stickyBit (raises clears : Word → Bool) (b : Bool) (v : Word) : WindowReg → Bool
  | .cmd => b || raises v
  | .status => b && !clears v
  | .opa | .opb | .res => b

/-- Both STATUS bits are sticky bits: DZ has FXCORE's dz and bit 0, ILL has FXCORE's ill and bit 1. -/
theorem writeRegister_stickyBits {r : WindowReg} {v : Word} {s t : State} (h : writeRegister r v s = .next t) :
    t.dz = r.stickyBit (fun c => (fxcore c s.opa s.opb).dz) (·.getLsbD 0) s.dz v ∧
      t.ill = r.stickyBit (fun c => (fxcore c s.opa s.opb).ill) (·.getLsbD 1) s.ill v := by
  cases r with
  | cmd => exact performCommand_stickyBits h
  | opa | opb | res | status => cases h; exact ⟨rfl, rfl⟩

/-- A step from `s` takes a sticky bit from `b` to `b'`: the three causes of `step_register_cases`. -/
inductive StickyStep (s : State) (raises clears : Word → Bool) (b b' : Bool) : Prop where
  | write (r : WindowReg) (v : Word) (hw : s.nextWrites r.offset v) (hb : b' = r.stickyBit raises clears b v)
  | reset (hr : s.nextResets) (hb : b' = false)
  | keep (hw : ∀ (r : WindowReg) v, ¬ s.nextWrites r.offset v) (hr : ¬ s.nextResets) (hb : b' = b)

theorem step_stickyBits {s t : State} (h : step s = .next t) :
    StickyStep s (fun c => (fxcore c s.opa s.opb).dz) (·.getLsbD 0) s.dz t.dz ∧
      StickyStep s (fun c => (fxcore c s.opa s.opb).ill) (·.getLsbD 1) s.ill t.ill := by
  obtain ⟨r, v, _, _, hw, hv⟩ | ⟨hr, _, _, _, rfl⟩ | ⟨hw, hr, _, _, rfl⟩ := step_register_cases h
  · obtain ⟨hdz, hill⟩ := writeRegister_stickyBits hv
    exact ⟨.write r v hw hdz, .write r v hw hill⟩
  · exact ⟨.reset hr rfl, .reset hr rfl⟩
  · exact ⟨.keep hw hr rfl, .keep hw hr rfl⟩

/-- A write of CMD that raises sets the bit, a write of STATUS that clears it and a reset clear it, and every other event
leaves it: the next event is at most one of these. -/
theorem StickyStep.rule {s : State} {raises clears : Word → Bool} {b b' : Bool}
    (h : StickyStep s raises clears b b') :
    (∀ c, s.nextWrites 0x08 c → raises c = true → b' = true) ∧
    (∀ v, s.nextWrites 0x10 v → clears v = true → b' = false) ∧
    (s.nextResets → b' = false) ∧
    ((∀ c, s.nextWrites 0x08 c → raises c = false) → (∀ v, s.nextWrites 0x10 v → clears v = false) →
      ¬ s.nextResets → b' = b) := by
  cases h with
  | write r v hw hb =>
    refine ⟨fun c hc hraise => ?_, fun u hu hclear => ?_, fun hr => absurd hr (nextWrites_not_nextResets hw),
      fun hquiet hkept _ => ?_⟩
    · obtain ⟨rfl, rfl⟩ := nextWrites_unique (r' := .cmd) hw hc
      simp [hb, WindowReg.stickyBit, hraise]
    · obtain ⟨rfl, rfl⟩ := nextWrites_unique (r' := .status) hw hu
      simp [hb, WindowReg.stickyBit, hclear]
    · cases r with
      | cmd => simp [hb, WindowReg.stickyBit, hquiet v hw]
      | status => simp [hb, WindowReg.stickyBit, hkept v hw]
      | opa | opb | res => exact hb
  | reset hr hb =>
    exact ⟨fun _ hc => absurd hr (nextWrites_not_nextResets hc), fun _ hv => absurd hr (nextWrites_not_nextResets hv),
      fun _ => hb, fun _ _ hnr => absurd hr hnr⟩
  | keep hw hr hb =>
    exact ⟨fun c hc => absurd hc (hw .cmd c), fun v hv => absurd hv (hw .status v), fun h => absurd h hr,
      fun _ _ _ => hb⟩

/-- Settles O43: DZ is a sticky bit, set by the CMD writes whose FXCORE says dz and cleared by bit 0 of STATUS. -/
theorem dzChangesOnlyAsStated : Obligations.DzChangesOnlyAsStated := fun _ _ h => (step_stickyBits h).1.rule

/-- Settles O44: ILL is a sticky bit, set by the CMD writes whose FXCORE says ill and cleared by bit 1 of STATUS. -/
theorem illChangesOnlyAsStated : Obligations.IllChangesOnlyAsStated := fun _ _ h => (step_stickyBits h).2.rule

/-! ### Reset (R33) -/

/-- Settles O1: every field of the reset state is 0, and a read of CMD answers 0 from any state. -/
theorem resetStateIsAllZero : Obligations.ResetStateIsAllZero :=
  ⟨rfl, rfl, rfl, rfl, rfl, by decide, fun _ => rfl⟩

end Sys2Proof.Machine
end

/-! ## Proofs: repeated writes of the register window (20_memory.md R42) -/

section

namespace Sys2Proof.Machine

/-! ### One equation per outcome of a command (R81 to R83) -/

section Command

variable {c y : Word} {s t u : State}

theorem performCommand_of_illegal {why : IllegalWord} (hd : decode c = .illegal why) :
    performCommand c s = .next (s.raise .illegalCommand) := by
  simp only [performCommand, hd]

theorem performCommand_of_operation_none {i : Instr} (hd : decode c = .legal i)
    (ho : operation i s.opa s.opb = none) : performCommand c s = .next (s.raise .divideByZero) := by
  simp only [performCommand, hd, exec_eq, ho]

theorem performCommand_of_operation_some {i : Instr} (hd : decode c = .legal i)
    (ho : operation i s.opa s.opb = some y) : performCommand c s = .next (s.writeResult y) := by
  simp only [performCommand, hd, exec_eq, ho]

/-! ### Commands and writes performed twice -/

/-- A command finds the operands as the same command before it found them, so it has the same outcome, and writes what
stands there already. -/
theorem performCommand_idempotent (h : performCommand c s = .next t) : performCommand c t = .next t := by
  obtain ⟨i, y, hd, ho, rfl⟩ | ⟨i, hd, hi, hb, rfl⟩ | ⟨why, hd, rfl⟩ := performCommand_cases h
  · exact performCommand_of_operation_some hd ho
  · exact performCommand_of_operation_none hd (operation_eq_none.mpr ⟨hi, hb⟩)
  · exact performCommand_of_illegal hd

/-- A second write of the same word to STATUS finds the bits it clears clear. -/
@[simp] theorem writeStatus_writeStatus (v : Word) (s : State) :
    (s.writeStatus v).writeStatus v = s.writeStatus v := by
  simp [State.writeStatus]

/-- A second write of the same word to a register changes nothing, of CMD too. -/
theorem writeRegister_idempotent {r : WindowReg} {v : Word} (h : writeRegister r v s = .next t) :
    writeRegister r v t = .next t := by
  cases r with
  | opa | opb | res => cases h; rfl
  | cmd => exact performCommand_idempotent h
  | status =>
    cases h
    exact congrArg Host.Outcome.next (writeStatus_writeStatus v s)

/-- A command repeated after any write to STATUS sets the bits its first run set: the write leaves the operands, from
which FXCORE says the faults. -/
theorem repeatedCommand_stickyBits {v : Word} (h : performCommand c s = .next t)
    (hu : performCommand c (t.writeStatus v) = .next u) :
    ((fxcore c s.opa s.opb).dz = true → u.dz = true) ∧ ((fxcore c s.opa s.opb).ill = true → u.ill = true) := by
  obtain ⟨ha, hb⟩ := performCommand_operands h
  obtain ⟨hdz, hill⟩ := performCommand_stickyBits hu
  rw [State.writeStatus_opa, State.writeStatus_opb, ha, hb] at hdz hill
  exact ⟨fun hf => by rw [hdz, hf, Bool.or_true], fun hf => by rw [hill, hf, Bool.or_true]⟩

end Command

/-- Settles O46: the second write of a register or of a command answers what the first one left, and a repeated fault is
set again by `repeatedCommand_stickyBits`. -/
theorem repeatedWrites : Obligations.RepeatedWrites := by
  refine ⟨fun _ _ => rfl, fun _ _ _ _ _ _ h hu => ?_, fun _ _ _ _ h hu => ?_,
    fun _ _ _ _ h hf hu => (repeatedCommand_stickyBits h hu).1 hf,
    fun _ _ _ _ h hf hu => (repeatedCommand_stickyBits h hu).2 hf⟩
  · exact Host.Outcome.next.inj (hu.symm.trans (writeRegister_idempotent h))
  · exact Host.Outcome.next.inj (hu.symm.trans (performCommand_idempotent h))

end Sys2Proof.Machine
end

/-! ## Proofs: the command word and the unary operations (30_encoding.md) -/

section

namespace Sys2Proof.Machine

/-! ### The two fields as numbers (R50) -/

theorem rsvdField_toNat (c : Word) : (rsvdField c).toNat = c.toNat / 16 := by
  have hc := word_toNat_eq_fields c
  have hop := (opField c).isLt
  omega

theorem opField_toNat (c : Word) : (opField c).toNat = c.toNat % 16 := by
  have hc := word_toNat_eq_fields c
  have hop := (opField c).isLt
  omega

/-! ### One equation per branch of the decoder, and its legal and illegal words (R55, R56, R58) -/

theorem decode_of_rsvdField_ne_zero {c : Word} (h : c.toNat / 16 ≠ 0) : decode c = .illegal .reservedField := by
  have hr : rsvdField c ≠ 0#28 := fun he => h <| by rw [← rsvdField_toNat, he, BitVec.toNat_zero]
  exact if_pos hr

theorem decode_of_rsvdField_eq_zero {c : Word} (h : c.toNat / 16 = 0) : decode c = decodeOp (opField c) := by
  have hr : rsvdField c = 0#28 := BitVec.eq_of_toNat_eq ((rsvdField_toNat c).trans h)
  exact if_neg (not_not.mpr hr)

/-- An OP value is never illegal for the RSVD field. -/
theorem decodeOp_ne_reservedField (op : BitVec 4) : decodeOp op ≠ .illegal .reservedField := by
  revert op
  decide

theorem decodeOp_eq_reservedOp_iff {op : BitVec 4} : decodeOp op = .illegal .reservedOp ↔ 0xB ≤ op.toNat := by
  revert op
  decide

/-- A word is illegal for its RSVD field exactly when that field is not 0: `decodeOp`, asked otherwise, never
gives that reason. -/
theorem decode_eq_reservedField_iff {c : Word} : decode c = .illegal .reservedField ↔ c.toNat / 16 ≠ 0 := by
  refine ⟨fun hd hz => ?_, decode_of_rsvdField_ne_zero⟩
  rw [decode_of_rsvdField_eq_zero hz] at hd
  exact decodeOp_ne_reservedField _ hd

/-- A word is illegal for its OP value exactly when RSVD is 0, so that OP is looked at, and OP is reserved. -/
theorem decode_eq_reservedOp_iff {c : Word} :
    decode c = .illegal .reservedOp ↔ c.toNat / 16 = 0 ∧ 0xB ≤ c.toNat % 16 := by
  by_cases hz : c.toNat / 16 = 0
  · rw [decode_of_rsvdField_eq_zero hz, decodeOp_eq_reservedOp_iff, opField_toNat, and_iff_right hz]
  · simp [decode_of_rsvdField_ne_zero hz, hz]

/-- A word decodes to an operation exactly when it has no reason to be illegal. -/
theorem exists_decode_legal_iff {c : Word} : (∃ i, decode c = .legal i) ↔ ¬ ∃ why, decode c = .illegal why := by
  cases decode c <;> simp

/-- The legal words are exactly 0x0 to 0xA. -/
theorem exists_decode_legal_iff_legalCommandWord {c : Word} :
    (∃ i, decode c = .legal i) ↔ legalCommandWord c = true := by
  rw [exists_decode_legal_iff, decode_illegal_iff, legalCommandWord, decide_eq_true_iff, not_lt]

/-- Settles O5: the operations' words by `decode_eq_legal_iff`, each reason by the branch of the decoder that gives it, and
the legal words as those with no reason. -/
theorem decodeAndEncodeAgreeOnEveryWord : Obligations.DecodeAndEncodeAgreeOnEveryWord :=
  ⟨rfl, fun _ _ => decode_eq_legal_iff, fun _ => exists_decode_legal_iff_legalCommandWord,
    fun _ => decode_eq_reservedField_iff, fun _ => decode_eq_reservedOp_iff, fun _ _ _ => fxcore_ill_iff⟩

/-! ### The unary operations (R53) -/

/-- An operation that has a result on the operands completes with it. -/
theorem exec_of_operation_some {i : Instr} {s : State} {y : Word} (ho : operation i s.opa s.opb = some y) :
    exec i s = .next (s.writeResult y) := by
  simp only [exec_eq, ho]

/-- Settles O26: each unary operation has a result that is a function of operand A alone. -/
theorem unaryOperationsIgnoreOperandB : Obligations.UnaryOperationsIgnoreOperandB := by
  rintro i s (rfl | rfl | rfl)
  · exact ⟨intToFp s.opa, fun _ => exec_of_operation_some rfl⟩
  · exact ⟨fpToInt s.opa, fun _ => exec_of_operation_some rfl⟩
  · exact ⟨fpToIntRound s.opa, fun _ => exec_of_operation_some rfl⟩

end Sys2Proof.Machine
end

/-! ## Proofs: the conversion family (40_conversion.md) -/

section

namespace Sys2Proof.Machine

/-! ### The unary operations complete (R53, R81) -/

/-- An operation that has a result on the operands yields it from every state that holds them (R17, R81). -/
theorem yields_of_operation_some {i : Instr} {a b y : Word} (ho : operation i a b = some y) : yields i a b y := by
  rintro s rfl rfl
  exact exec_of_operation_some ho

/-- A unary operation's result does not depend on operand B (R53). -/
theorem operation_congr_of_unary {i : Instr} (hu : i.unary = true) (a b b' : Word) :
    operation i a b = operation i a b' := by
  cases i with
  | intToFp | fpToInt | fpToIntRound => rfl
  | addFp | addMixed | subFp | subMixed | multFp | multMixed | divFp | divMixed => cases hu

/-- A unary operation that has a result beside operand B = 0 yields it beside every operand B. -/
theorem yields_of_unary {i : Instr} (hu : i.unary = true) {a y : Word} (ho : operation i a 0#32 = some y) (b : Word) :
    yields i a b y :=
  yields_of_operation_some ((operation_congr_of_unary hu a b 0#32).trans ho)

/-! ### INT_TO_FP (R63) -/

/-- Narrowing is exact exactly on `i32`. -/
theorem wrap32_toInt_eq_iff {v : Int} : (wrap32 v).toInt = v ↔ -2147483648 ≤ v ∧ v ≤ 2147483647 :=
  ⟨fun h => h ▸ word_toInt_bounds (wrap32 v), fun ⟨hlo, hhi⟩ => wrap32_toInt_of_le hlo hhi⟩

/-- The scaled integer is representable exactly for n in [-131072, 131071]. -/
theorem intToFp_toInt_eq_iff (n : Word) :
    (intToFp n).toInt = n.toInt * 16384 ↔ -131072 ≤ n.toInt ∧ n.toInt ≤ 131071 := by
  rw [intToFp, Config.scale, wrap32_toInt_eq_iff]
  omega

/-- Only the low 18 bits of n survive: `{n[17:0], 14'b0}` denotes them times 2^14, and the bits above them contribute
multiples of 2^32. -/
theorem intToFp_eq_append (n : Word) : intToFp n = n.extractLsb' 0 18 ++ 0#14 := by
  have hlow : (2 ^ 18 : Int) ∣ n.toInt - (n.extractLsb' 0 18).toInt := by
    rw [← BitVec.setWidth_eq_extractLsb' (by decide), BitVec.toInt_setWidth, BitVec.toInt_eq_toNat_bmod]
    simp only [Int.bmod_def]
    omega
  have hvalue : (n.extractLsb' 0 18 ++ 0#14).toInt = 2 ^ 14 * (n.extractLsb' 0 18).toInt :=
    BitVec.toInt_append_zero
  exact (eq_wrap32_of_dvd (by rw [hvalue, Config.scale]; omega)).symm

/-- Settles O11: exactness from `wrap32`'s range, the bit pattern from congruence, the corner values by evaluation. -/
theorem intToFpRule : Obligations.IntToFpRule :=
  ⟨by decide, fun _ => exec_of_operation_some rfl, intToFp_toInt_eq_iff, intToFp_eq_append, fun b => by
    and_intros <;> exact yields_of_unary rfl (by decide) b⟩

/-! ### FP_TO_INT (R64) -/

/-- From 0 up, the quotient toward zero is the floor. -/
theorem tdiv_scale_of_nonneg {v : Int} (h : 0 ≤ v) : tdiv v 16384 = v / 16384 := Int.tdiv_eq_ediv_of_nonneg h

/-- Below 0, the quotient toward zero mirrors the one of the magnitude: it is the ceiling. -/
theorem tdiv_scale_of_nonpos {v : Int} (h : v ≤ 0) : tdiv v 16384 = -(-v / 16384) := by
  rw [← tdiv_scale_of_nonneg (Int.neg_nonneg_of_nonpos h), tdiv, tdiv, Int.neg_tdiv, neg_neg]

/-- Every word's quotient lies in [-131072, 131071]. -/
theorem tdiv_scale_bounds (x : Word) : -131072 ≤ tdiv x.toInt 16384 ∧ tdiv x.toInt 16384 ≤ 131071 := by
  have hx := word_toInt_bounds x
  obtain hpos | hneg := le_total 0 x.toInt
  · rw [tdiv_scale_of_nonneg hpos]
    omega
  · rw [tdiv_scale_of_nonpos hneg]
    omega

/-- A word's quotient never wraps. -/
theorem wrap32_tdiv_scale_toInt (x : Word) : (wrap32 (tdiv x.toInt 16384)).toInt = tdiv x.toInt 16384 := by
  have hq := tdiv_scale_bounds x
  exact wrap32_toInt_of_le (by omega) (by omega)

theorem fpToInt_toInt (x : Word) : (fpToInt x).toInt = tdiv x.toInt 16384 := wrap32_tdiv_scale_toInt x

/-- The arithmetic shift rounds down, FP_TO_INT toward zero: they part on every negative non-multiple of 2^14. -/
theorem fpToInt_ne_sshiftRight {x : Word} (hneg : x.toInt < 0) (hdvd : ¬ (16384 : Int) ∣ x.toInt) :
    fpToInt x ≠ x.sshiftRight 14 := by
  intro heq
  have hshift : (x.sshiftRight 14).toInt = x.toInt / 16384 := by
    rw [BitVec.toInt_sshiftRight, Int.shiftRight_eq_div_pow]
    rfl
  rw [← heq, fpToInt_toInt, tdiv_scale_of_nonpos hneg.le] at hshift
  omega

/-- Settles O12: the quotient's range, the ceiling against the shift's floor, and the corner values by evaluation. -/
theorem fpToIntRule : Obligations.FpToIntRule :=
  ⟨by decide, fun _ => exec_of_operation_some rfl, tdiv_scale_bounds, fun _ => fpToInt_ne_sshiftRight, fun b => by
    and_intros <;> exact yields_of_unary rfl (by decide) b⟩

/-! ### FP_TO_INT_ROUND (R65) -/

theorem fpToIntRound_toInt (x : Word) : (fpToIntRound x).toInt = tdiv (roundingOffset x).toInt 16384 :=
  wrap32_tdiv_scale_toInt (roundingOffset x)

/-- The offset is added from 0 up, and wraps exactly when the sum is above `i32`. -/
theorem roundingOffset_toInt_of_nonneg {x : Word} (h : 0 ≤ x.toInt) :
    (roundingOffset x).toInt = if x.toInt ≤ 2147475455 then x.toInt + 8192 else x.toInt + 8192 - 2 ^ 32 := by
  have hx := word_toInt_bounds x
  rw [roundingOffset, if_pos h, Config.halfScale, wrap32_toInt, Int.bmod_def]
  split <;> split <;> omega

/-- The offset is subtracted below 0, and wraps exactly when the difference is below `i32`. -/
theorem roundingOffset_toInt_of_neg {x : Word} (h : x.toInt < 0) :
    (roundingOffset x).toInt = if -2147475456 ≤ x.toInt then x.toInt - 8192 else x.toInt - 8192 + 2 ^ 32 := by
  have hx := word_toInt_bounds x
  rw [roundingOffset, if_neg h.not_ge, Config.halfScale, wrap32_toInt, Int.bmod_def]
  split <;> split <;> omega

/-- From 0 up to the wrapping band, rounding adds half the scale and takes the floor. -/
theorem fpToIntRound_toInt_of_nonneg {x : Word} (h : 0 ≤ x.toInt) (hhi : x.toInt ≤ 2147475455) :
    (fpToIntRound x).toInt = (x.toInt + 8192) / 16384 := by
  rw [fpToIntRound_toInt, roundingOffset_toInt_of_nonneg h, if_pos hhi, tdiv_scale_of_nonneg (by omega)]

/-- Below 0 down to the wrapping band, rounding mirrors that of the magnitude. -/
theorem fpToIntRound_toInt_of_neg {x : Word} (h : x.toInt < 0) (hlo : -2147475456 ≤ x.toInt) :
    (fpToIntRound x).toInt = -((8192 - x.toInt) / 16384) := by
  rw [fpToIntRound_toInt, roundingOffset_toInt_of_neg h, if_pos hlo, tdiv_scale_of_nonpos (by omega), neg_sub]

/-- Outside the wrapping bands the result is a nearest integer, and of two nearest ones that of larger magnitude. -/
theorem fpToIntRound_nearest {x : Word} (hlo : -2147475456 ≤ x.toInt) (hhi : x.toInt ≤ 2147475455) :
    2 * ((fpToIntRound x).toInt * 16384 - x.toInt).natAbs ≤ 16384 ∧
      (2 * ((fpToIntRound x).toInt * 16384 - x.toInt).natAbs = 16384 →
        x.toInt.natAbs < ((fpToIntRound x).toInt * 16384).natAbs) := by
  obtain hpos | hneg := le_or_gt 0 x.toInt
  · rw [fpToIntRound_toInt_of_nonneg hpos hhi]
    omega
  · rw [fpToIntRound_toInt_of_neg hneg hlo]
    omega

/-- In the upper band the wrapped offset operand is far below 0. -/
theorem fpToIntRound_neg_of_wraps {x : Word} (h : 2147475456 ≤ x.toInt) : (fpToIntRound x).toInt < 0 := by
  have hx := word_toInt_bounds x
  rw [fpToIntRound_toInt, roundingOffset_toInt_of_nonneg (by omega), if_neg (by omega), tdiv_scale_of_nonpos (by omega)]
  omega

/-- In the lower band the wrapped offset operand is far above 0. -/
theorem fpToIntRound_pos_of_wraps {x : Word} (h : x.toInt ≤ -2147475457) : 0 < (fpToIntRound x).toInt := by
  have hx := word_toInt_bounds x
  rw [fpToIntRound_toInt, roundingOffset_toInt_of_neg (by omega), if_neg (by omega), tdiv_scale_of_nonneg (by omega)]
  omega

/-- Settles O13: nearest with ties away outside the bands where the offset wraps, the wrong sign inside them, and the
corner values by evaluation. -/
theorem fpToIntRoundRule : Obligations.FpToIntRoundRule :=
  ⟨by decide, fun _ => exec_of_operation_some rfl, fun _ => fpToIntRound_nearest, fun _ => fpToIntRound_neg_of_wraps,
    fun _ => fpToIntRound_pos_of_wraps, fun b => by
    and_intros <;> exact yields_of_unary rfl (by decide) b⟩

/-! ### The laws of the conversions (R66) -/

/-- (a): the scaled integer is a multiple of 2^14, so truncating it is exact. -/
theorem fpToInt_intToFp {n : Word} (hlo : -131072 ≤ n.toInt) (hhi : n.toInt ≤ 131071) : fpToInt (intToFp n) = n := by
  rw [← BitVec.toInt_inj, fpToInt_toInt, (intToFp_toInt_eq_iff n).mpr ⟨hlo, hhi⟩]
  exact Int.mul_tdiv_cancel _ (by decide)

/-- (b): half the scale beside a multiple of 2^14 is lost in the rounding, unless the offset wraps. -/
theorem fpToIntRound_intToFp {n : Word} (hlo : -131071 ≤ n.toInt) (hhi : n.toInt ≤ 131071) :
    fpToIntRound (intToFp n) = n := by
  have hn := (intToFp_toInt_eq_iff n).mpr ⟨by omega, hhi⟩
  rw [← BitVec.toInt_inj]
  obtain hpos | hneg := le_or_gt 0 n.toInt
  · rw [fpToIntRound_toInt_of_nonneg (by omega) (by omega)]
    omega
  · rw [fpToIntRound_toInt_of_neg (by omega) (by omega)]
    omega

/-- (c): outside the wrapping bands the two results are within 1 of each other. -/
theorem fpToInt_sub_fpToIntRound {x : Word} (hlo : -2147475456 ≤ x.toInt) (hhi : x.toInt ≤ 2147475455) :
    ((fpToInt x).toInt - (fpToIntRound x).toInt).natAbs ≤ 1 := by
  rw [fpToInt_toInt]
  obtain hpos | hneg := le_or_gt 0 x.toInt
  · rw [tdiv_scale_of_nonneg hpos, fpToIntRound_toInt_of_nonneg hpos hhi]
    omega
  · rw [tdiv_scale_of_nonpos hneg.le, fpToIntRound_toInt_of_neg hneg hlo]
    omega

/-- (d), from 0 up: the floor. -/
theorem fpToInt_toInt_of_nonneg {x : Word} (h : 0 ≤ x.toInt) : (fpToInt x).toInt = Int.fdiv x.toInt 16384 := by
  rw [fpToInt_toInt, tdiv_scale_of_nonneg h, Int.fdiv_eq_ediv_of_nonneg _ (by decide)]

/-- (d), below 0: the ceiling. -/
theorem fpToInt_toInt_of_neg {x : Word} (h : x.toInt < 0) : (fpToInt x).toInt = -Int.fdiv (-x.toInt) 16384 := by
  rw [fpToInt_toInt, tdiv_scale_of_nonpos h.le, Int.fdiv_eq_ediv_of_nonneg _ (by decide)]

/-- Settles O22: each law by its lemma, the exception at -131072, whose offset wraps, by evaluation. -/
theorem conversionLaws : Obligations.ConversionLaws :=
  ⟨fun _ => fpToInt_intToFp, fun _ => fpToIntRound_intToFp, by decide, fun _ => fpToInt_sub_fpToIntRound,
    fun _ => fpToInt_toInt_of_nonneg, fun _ => fpToInt_toInt_of_neg⟩

end Sys2Proof.Machine
end

/-! ## Proofs: the adder/subtractor family (41_addsub.md) -/

section

namespace Sys2Proof.Machine

/-! ### The four results as words -/

/-- ADD_FP is the 32-bit sum: narrowing commutes with addition. -/
theorem addFp_eq_add (x y : Word) : addFp x y = x + y := by
  rw [addFp, wrap32, BitVec.ofInt_add, BitVec.ofInt_toInt, BitVec.ofInt_toInt]

/-- SUB_FP is the 32-bit difference: narrowing commutes with subtraction. -/
theorem subFp_eq_sub (x y : Word) : subFp x y = x - y := by
  rw [subFp, wrap32, sub_eq_add_neg, BitVec.ofInt_add, BitVec.ofInt_neg, BitVec.ofInt_toInt, BitVec.ofInt_toInt,
    BitVec.sub_eq_add_neg]

/-- The narrowing of a subtrahend is absorbed by the narrowing of the difference. -/
theorem wrap32_sub_wrap32_toInt (a b : Int) : wrap32 (a - (wrap32 b).toInt) = wrap32 (a - b) := by
  have hb := dvd_sub_wrap32_toInt b
  exact wrap32_eq_iff.mpr (by omega)

/-- R69: wrapping the promoted operand first, or only the sum, is the same. -/
theorem addMixed_eq_wrap32 (x n : Word) : addMixed x n = wrap32 (x.toInt + n.toInt * 16384) :=
  wrap32_add_wrap32_toInt x.toInt (n.toInt * 16384)

/-- R71: wrapping the promoted operand first, or only the difference, is the same. -/
theorem subMixed_eq_wrap32 (x n : Word) : subMixed x n = wrap32 (x.toInt - n.toInt * 16384) :=
  wrap32_sub_wrap32_toInt x.toInt (n.toInt * 16384)

/-- A mixed addition is the plain one on the converted integer: promotion is INT_TO_FP (R67). -/
theorem addMixed_eq_addFp_intToFp (x n : Word) : addMixed x n = addFp x (intToFp n) := rfl

/-- A mixed subtraction is the plain one on the converted integer: promotion is INT_TO_FP (R67). -/
theorem subMixed_eq_subFp_intToFp (x n : Word) : subMixed x n = subFp x (intToFp n) := rfl

/-- Equal operands give 0 (R70). -/
theorem subFp_self (x : Word) : subFp x x = 0#32 := by rw [subFp_eq_sub, BitVec.sub_self]

/-! ### The rules of the four operations (R68 to R71) -/

/-- Settles O14: exactness is that of `wrap32`; the corner values by evaluation. -/
theorem addFpRule : Obligations.AddFpRule :=
  ⟨decode_encode .addFp, fun _ => exec_of_operation_some rfl, fun _ _ => wrap32_toInt_eq_iff, by
    and_intros <;> exact yields_of_operation_some (by decide)⟩

/-- Settles O15: the unit computes the first form, and the second is the same word by `addMixed_eq_wrap32`. -/
theorem addMixedRule : Obligations.AddMixedRule :=
  ⟨decode_encode .addMixed, fun _ => exec_of_operation_some rfl,
    fun s => exec_of_operation_some (congrArg some (addMixed_eq_wrap32 s.opa s.opb)), by
    and_intros <;> exact yields_of_operation_some (by decide)⟩

/-- Settles O16: exactness is that of `wrap32`; the corner values by evaluation. -/
theorem subFpRule : Obligations.SubFpRule :=
  ⟨decode_encode .subFp, fun _ => exec_of_operation_some rfl, fun _ _ => wrap32_toInt_eq_iff,
    fun x => yields_of_operation_some (congrArg some (subFp_self x)), by
    and_intros <;> exact yields_of_operation_some (by decide)⟩

/-- Settles O17: the unit computes the first form, and the second is the same word by `subMixed_eq_wrap32`. -/
theorem subMixedRule : Obligations.SubMixedRule :=
  ⟨decode_encode .subMixed, fun _ => exec_of_operation_some rfl,
    fun s => exec_of_operation_some (congrArg some (subMixed_eq_wrap32 s.opa s.opb)), by
    and_intros <;> exact yields_of_operation_some (by decide)⟩

/-! ### The laws of the family (R72) -/

@[simp] theorem intToFp_zero : intToFp 0#32 = 0#32 := by decide

/-- (a): the converted 0 is the identity of addition. -/
theorem addFp_intToFp_zero (x : Word) : addFp x (intToFp 0#32) = x := by
  rw [intToFp_zero, addFp_eq_add, BitVec.add_zero]

theorem addFp_comm (x y : Word) : addFp x y = addFp y x := by
  rw [addFp_eq_add, addFp_eq_add, BitVec.add_comm]

/-- (e): exchanging the operands of a subtraction negates its result, at 32 bits. -/
theorem subFp_antisymm (x y : Word) : subFp x y = wrap32 (-(subFp y x).toInt) := by
  rw [wrap32, BitVec.ofInt_neg, BitVec.ofInt_toInt, subFp_eq_sub, subFp_eq_sub, neg_sub]

/-- (f): adding the subtrahend back restores the first operand, whether or not the difference wrapped. -/
theorem addFp_subFp_cancel (x y : Word) : addFp (subFp x y) y = x := by
  rw [addFp_eq_add, subFp_eq_sub, BitVec.sub_add_cancel]

/-- Settles O23: the two operations are 32-bit addition and subtraction, so the laws are those of the ring of words. -/
theorem addSubLaws : Obligations.AddSubLaws :=
  ⟨addFp_intToFp_zero, subFp_self, intToFp_zero, addMixed_eq_addFp_intToFp, subMixed_eq_subFp_intToFp, addFp_comm,
    subFp_antisymm, addFp_subFp_cancel⟩

end Sys2Proof.Machine
end

/-! ## Proofs: the multiplier family (42_multiply.md) -/

section

namespace Sys2Proof.Machine

/-! ### MULT_MIXED (R75) -/

/-- MULT_MIXED is the 32-bit product: narrowing commutes with multiplication. -/
theorem multMixed_eq_mul (x n : Word) : multMixed x n = x * n := by
  rw [multMixed, wrap32, BitVec.ofInt_mul, BitVec.ofInt_toInt, BitVec.ofInt_toInt]

/-- Forming the product at 64 bits first and keeping its low 32 bits is the same. -/
theorem multMixed_eq_setWidth_product64 (x n : Word) : multMixed x n = (product64 x n).setWidth 32 := by
  rw [setWidth_eq_wrap32_toInt (by decide), product64_toInt, multMixed]

/-- Settles O19: the product is the same at both widths; the corner values by evaluation. -/
theorem multMixedRule : Obligations.MultMixedRule :=
  ⟨decode_encode .multMixed, fun _ => exec_of_operation_some rfl,
    fun x n => ⟨multMixed_eq_mul x n, multMixed_eq_setWidth_product64 x n⟩, by
    and_intros <;> exact yields_of_operation_some (by decide)⟩

/-! ### MULT_FP by the scaled constants (R74, R76) -/

theorem multFp_comm (x y : Word) : multFp x y = multFp y x := by
  rw [multFp, mul_comm, ← multFp]

/-- (c): the scale of an exactly converted integer cancels the division by the scale. -/
theorem multFp_intToFp (x : Word) {n : Word} (hlo : -131072 ≤ n.toInt) (hhi : n.toInt ≤ 131071) :
    multFp x (intToFp n) = multMixed x n := by
  have hquot : tdiv (x.toInt * (n.toInt * 16384)) 16384 = x.toInt * n.toInt := by
    rw [← mul_assoc]
    exact Int.mul_tdiv_cancel _ (by decide)
  rw [multFp, (intToFp_toInt_eq_iff n).mpr ⟨hlo, hhi⟩, Config.scale, hquot, multMixed]

/-- (a): the converted 1 is the identity of multiplication. -/
theorem multFp_intToFp_one (x : Word) : multFp x (intToFp 1#32) = x := by
  rw [multFp_intToFp x (by decide) (by decide), multMixed_eq_mul, BitVec.mul_one]

/-- The converted 1 is the word 16384 (1.0). -/
theorem intToFp_one : intToFp 1#32 = 16384#32 := by decide

theorem multFp_scale (x : Word) : multFp x 16384#32 = x := intToFp_one ▸ multFp_intToFp_one x

theorem multMixed_zero (x : Word) : multMixed x 0#32 = 0#32 := by rw [multMixed_eq_mul, BitVec.mul_zero]

/-- (e): 0 is the converted 0, so it absorbs as it does in MULT_MIXED. -/
theorem multFp_zero (x : Word) : multFp x 0#32 = 0#32 := by
  rw [← intToFp_zero, multFp_intToFp x (by decide) (by decide), multMixed_zero, intToFp_zero]

/-! ### The rule of MULT_FP (R74) -/

/-- The quotient of the exact product has magnitude at most 2^48. -/
theorem tdiv_word_mul_natAbs_le (x y : Word) : (tdiv (x.toInt * y.toInt) 16384).natAbs ≤ 2 ^ 48 :=
  calc (tdiv (x.toInt * y.toInt) 16384).natAbs = (x.toInt * y.toInt).natAbs / 16384 := tdiv_natAbs ..
    _ ≤ 2 ^ 62 / 16384 := Nat.div_le_div_right (word_mul_natAbs_le x y)
    _ = 2 ^ 48 := by decide

/-- The arithmetic shift of the product by 14 is its floor division by the scale. -/
theorem product64_sshiftRight_toInt (x y : Word) :
    ((product64 x y).sshiftRight 14).toInt = x.toInt * y.toInt / 16384 := by
  rw [BitVec.toInt_sshiftRight, Int.shiftRight_eq_div_pow, product64_toInt]
  rfl

/-- Below 0 and off the multiples of the scale, the quotient toward zero is one above the floor. -/
theorem tdiv_scale_of_neg_of_not_dvd {v : Int} (hneg : v < 0) (hdvd : ¬ (16384 : Int) ∣ v) :
    tdiv v 16384 = v / 16384 + 1 := by
  rw [tdiv_scale_of_nonpos hneg.le]
  omega

/-- The arithmetic shift rounds down, MULT_FP toward zero: on a negative product that is no multiple of 2^14 the two
quotients are 1 apart, so their low 32 bits differ. -/
theorem multFp_ne_sshiftRight {x y : Word} (hneg : x.toInt * y.toInt < 0)
    (hdvd : ¬ (16384 : Int) ∣ x.toInt * y.toInt) :
    multFp x y ≠ ((product64 x y).sshiftRight 14).setWidth 32 := by
  rw [setWidth_eq_wrap32_toInt (by decide), product64_sshiftRight_toInt, multFp, Config.scale,
    tdiv_scale_of_neg_of_not_dvd hneg hdvd, Ne, wrap32_eq_iff, add_sub_cancel_left]
  decide

/-- Settles O18: the bounds from the product's, the shift by `multFp_ne_sshiftRight`, the identity on either side, and
the corner values by evaluation. -/
theorem multFpRule : Obligations.MultFpRule :=
  ⟨decode_encode .multFp, fun s => exec_of_operation_some (by rw [sext64_toInt, sext64_toInt]; rfl),
    fun x y => ⟨word_mul_natAbs_le x y, tdiv_word_mul_natAbs_le x y⟩, fun _ _ => multFp_ne_sshiftRight,
    fun x => ⟨yields_of_operation_some (congrArg some (multFp_scale x)),
      yields_of_operation_some (congrArg some ((multFp_comm _ x).trans (multFp_scale x)))⟩, by
    and_intros <;> exact yields_of_operation_some (by decide)⟩

/-! ### The laws of the family (R76) -/

theorem multMixed_eq_wrap32_mul_comm (x n : Word) : multMixed x n = wrap32 (n.toInt * x.toInt) := by
  rw [multMixed, mul_comm]

/-- Dividing by the scale loses less than one unit, toward zero. -/
theorem tdiv_scale_truncates (v : Int) :
    (v - 16384 * tdiv v 16384).natAbs < 16384 ∧
      ((0 ≤ tdiv v 16384 ∧ 16384 * tdiv v 16384 ≤ v) ∨ (tdiv v 16384 ≤ 0 ∧ v ≤ 16384 * tdiv v 16384)) := by
  obtain hpos | hneg := le_total 0 v
  · rw [tdiv_scale_of_nonneg hpos]
    omega
  · rw [tdiv_scale_of_nonpos hneg]
    omega

/-- A quotient in `i32` is the result: nothing is lost in the narrowing. -/
theorem multFp_toInt_of_inI32 {x y : Word} (h : inI32 (tdiv (x.toInt * y.toInt) 16384) = true) :
    (multFp x y).toInt = tdiv (x.toInt * y.toInt) 16384 :=
  wrap32_toInt_eq_iff.mpr (of_decide_eq_true h)

/-- Settles O24: (a), (c) and (e) by the cancelled scale, (b) by commutativity of the exact product, (d) by the
truncation of a quotient that does not wrap. -/
theorem multiplyLaws : Obligations.MultiplyLaws :=
  ⟨fun x => ⟨multFp_intToFp_one x, multFp_scale x⟩, multFp_comm, multMixed_eq_wrap32_mul_comm,
    fun x _ hlo hhi => (multFp_intToFp x hlo hhi).symm,
    fun x y h => by rw [multFp_toInt_of_inI32 h]; exact tdiv_scale_truncates _,
    fun x => ⟨multFp_zero x, multMixed_zero x⟩⟩

end Sys2Proof.Machine
end

/-! ## Proofs: the divider family (43_divide.md) -/

section

namespace Sys2Proof.Machine

/-! ### Division by 0 (R77, R82) -/

/-- A division whose operand B is 0 raises DivideByZero and does nothing else. -/
theorem exec_of_divides_zero {i : Instr} {s : State} (hi : i.divides = true) (hb : s.opb = 0#32) :
    exec i s = .next (s.raise .divideByZero) := by
  rw [exec_eq, operation_eq_none.mpr ⟨hi, hb⟩]

/-- (f): a division whose operand B is 0 leaves RES as it was (R80). -/
theorem exec_res_of_divides_zero {i : Instr} {s t : State} (hi : i.divides = true) (hb : s.opb = 0#32)
    (h : exec i s = .next t) : t.res = s.res := by
  obtain rfl := Host.Outcome.next.inj ((exec_of_divides_zero hi hb).symm.trans h)
  exact State.raise_res s .divideByZero

/-! ### Truncation by any divisor (R15) -/

/-- The quotient loses less than one unit, toward zero: multiplied back by the divisor it lies between 0 and the
dividend. -/
theorem tdiv_truncates (p : Int) {q : Int} (hq : q ≠ 0) :
    (p - tdiv p q * q).natAbs < q.natAbs ∧ (tdiv p q * q).natAbs ≤ p.natAbs ∧ 0 ≤ tdiv p q * q * p := by
  have hrem : (p.tmod q).natAbs = p.natAbs % q.natAbs := Int.natAbs_tmod p q
  have hback : tdiv p q * q = p - p.tmod q := Int.tdiv_mul_self p q
  refine ⟨?_, ?_, ?_⟩
  · rw [hback, sub_sub_cancel, hrem]
    exact Nat.mod_lt _ (Int.natAbs_pos.mpr hq)
  · rw [Int.natAbs_mul, tdiv_natAbs]
    exact Nat.div_mul_le_self _ _
  · have hle : (p.tmod q).natAbs ≤ p.natAbs := hrem ▸ Nat.mod_le _ _
    rw [hback]
    obtain hpos | hneg := le_total 0 p
    · exact mul_nonneg (by omega) hpos
    · exact mul_nonneg_of_nonpos_of_nonpos (by omega) hneg

/-- A divisor of magnitude 2 or more at least halves the magnitude. -/
theorem tdiv_natAbs_le_half (p : Int) {q : Int} (hq : 2 ≤ q.natAbs) : (tdiv p q).natAbs ≤ p.natAbs / 2 :=
  (tdiv_natAbs p q).trans_le (Nat.div_le_div_left hq (by decide))

/-- A word other than 0 has a value other than 0. -/
theorem word_toInt_ne_zero {w : Word} (h : w ≠ 0#32) : w.toInt ≠ 0 :=
  fun hz => h (BitVec.toInt_inj.mp (hz.trans BitVec.toInt_zero.symm))

/-! ### The rules of the two operations (R78, R79) -/

/-- The scaled quotient is no larger than the scaled dividend. -/
theorem tdiv_word_mul_scale_natAbs_le (x y : Word) : (tdiv (x.toInt * 16384) y.toInt).natAbs ≤ 2 ^ 45 :=
  (Int.natAbs_tdiv_le_natAbs _ _).trans (word_mul_scale_natAbs_le x)

/-- Settles O20: division by 0 by `exec_of_divides_zero`, the bounds by the scaled dividend's, and the corner values by
evaluation. -/
theorem divFpRule : Obligations.DivFpRule :=
  ⟨decode_encode .divFp, fun _ => exec_of_divides_zero rfl,
    fun s hb => exec_of_operation_some (by rw [sext64_toInt, sext64_toInt]; exact if_neg hb),
    fun x y => ⟨word_mul_scale_natAbs_le x, tdiv_word_mul_scale_natAbs_le x y⟩, by
    and_intros <;> exact yields_of_operation_some (by decide)⟩

/-- The one quotient of words that leaves `i32`: a divisor of magnitude 2 or more halves the dividend, 1 keeps it, and -1
takes only -2^31 out. -/
theorem divMixed_toInt_ne_iff {x n : Word} (hn : n ≠ 0#32) :
    (divMixed x n).toInt ≠ tdiv x.toInt n.toInt ↔ x = 0x80000000#32 ∧ n = -1#32 := by
  have hx := word_toInt_bounds x
  have hn0 := word_toInt_ne_zero hn
  have hmin : (0x80000000#32 : Word).toInt = -2147483648 := by decide
  have hminus : (-1#32 : Word).toInt = -1 := by decide
  have hcases : n.toInt = 1 ∨ n.toInt = -1 ∨ 2 ≤ n.toInt.natAbs := by omega
  rw [divMixed, Ne, wrap32_toInt_eq_iff, ← BitVec.toInt_inj, ← BitVec.toInt_inj, hmin, hminus]
  obtain hone | hneg | hbig := hcases
  · rw [hone, tdiv, Int.tdiv_one]
    omega
  · rw [hneg, tdiv, Int.tdiv_neg, Int.tdiv_one]
    omega
  · have hhalf := tdiv_natAbs_le_half x.toInt hbig
    omega

/-- Settles O21: division by 0 by `exec_of_divides_zero`, the overflowing quotient by `divMixed_toInt_ne_iff`, and the
corner values by evaluation. -/
theorem divMixedRule : Obligations.DivMixedRule :=
  ⟨decode_encode .divMixed, fun _ => exec_of_divides_zero rfl, fun _ hb => exec_of_operation_some (if_neg hb),
    fun _ _ => divMixed_toInt_ne_iff, by
    and_intros <;> exact yields_of_operation_some (by decide)⟩

/-! ### The laws of the family (R80) -/

theorem divMixed_one (x : Word) : divMixed x 1#32 = x := by
  have hone : tdiv x.toInt (1#32 : Word).toInt = x.toInt := Int.tdiv_one x.toInt
  rw [divMixed, hone, wrap32_toInt_self]

/-- (c): the scale of an exactly converted divisor cancels that of the dividend. -/
theorem divFp_intToFp (x : Word) {n : Word} (hlo : -131072 ≤ n.toInt) (hhi : n.toInt ≤ 131071) :
    divFp x (intToFp n) = divMixed x n := by
  have hquot : tdiv (x.toInt * 16384) (n.toInt * 16384) = tdiv x.toInt n.toInt :=
    Int.mul_tdiv_mul_of_pos_left _ _ (by decide)
  rw [divFp, (intToFp_toInt_eq_iff n).mpr ⟨hlo, hhi⟩, Config.scale, hquot, divMixed]

/-- (a): the converted 1 is the identity of division. -/
theorem divFp_intToFp_one (x : Word) : divFp x (intToFp 1#32) = x := by
  rw [divFp_intToFp x (by decide) (by decide), divMixed_one]

theorem divFp_scale (x : Word) : divFp x 16384#32 = x := intToFp_one ▸ divFp_intToFp_one x

/-- (b): a word divided by itself is the scale, 1.0. -/
theorem divFp_self {x : Word} (hx : x ≠ 0#32) : divFp x x = 16384#32 := by
  have hquot : tdiv (x.toInt * 16384) x.toInt = 16384 := Int.mul_tdiv_cancel_left _ (word_toInt_ne_zero hx)
  rw [divFp, Config.scale, hquot]
  decide

/-- A quotient in `i32` is the result: nothing is lost in the narrowing. -/
theorem divFp_toInt_of_inI32 {x y : Word} (h : inI32 (tdiv (x.toInt * 16384) y.toInt) = true) :
    (divFp x y).toInt = tdiv (x.toInt * 16384) y.toInt :=
  wrap32_toInt_eq_iff.mpr (of_decide_eq_true h)

/-- Settles O25: (a) and (c) by the cancelled scale, (b) by the cancelled operand, (d) by the truncation of a quotient that
does not wrap, (e) by evaluation, (f) by the frame of DivideByZero. -/
theorem divideLaws : Obligations.DivideLaws :=
  ⟨fun x => ⟨divFp_intToFp_one x, divFp_scale x, divMixed_one x⟩, fun _ => divFp_self,
    fun x _ _ hlo hhi => (divFp_intToFp x hlo hhi).symm,
    fun x y hy h => by rw [divFp_toInt_of_inI32 h]; exact tdiv_truncates _ (word_toInt_ne_zero hy),
    by decide,
    fun _ _ hb h => h.elim (exec_res_of_divides_zero rfl hb) (exec_res_of_divides_zero rfl hb)⟩

end Sys2Proof.Machine
end

/-! ## Proofs: commands and their faults (60_exceptions.md) -/

section

namespace Sys2Proof.Machine

/-! ### A command and FXCORE (R81, R90) -/

/-- Settles O28: each answer of FXCORE is one outcome of the command. -/
theorem commandAgreesWithFxcore : Obligations.CommandAgreesWithFxcore := by
  intro c s
  obtain ⟨why, hd, hf⟩ | ⟨i, hd, ho, hf⟩ | ⟨i, y, hd, ho, hf⟩ := fxcore_cases c s.opa s.opb
  · rw [hf]
    exact performCommand_of_illegal hd
  · rw [hf]
    exact performCommand_of_operation_none hd ho
  · rw [hf]
    exact performCommand_of_operation_some hd ho

/-! ### DivideByZero (R82) -/

theorem instr_divides_iff {i : Instr} : i.divides = true ↔ i = .divFp ∨ i = .divMixed := by
  cases i <;> simp [Instr.divides]

/-- A command that changes DZ raised DivideByZero: a result leaves STATUS as it was. -/
theorem exec_raises_of_dz_ne {i : Instr} {s t : State} (h : exec i s = .next t) (hdz : t.dz ≠ s.dz) :
    i.divides = true ∧ s.opb = 0#32 ∧ t = s.raise .divideByZero := by
  obtain ⟨y, -, rfl⟩ | hraise := exec_cases h
  · exact absurd (State.writeResult_dz s y) hdz
  · exact hraise

/-- The words that raise DivideByZero on operand B 0, by the operation they decode to. -/
theorem fxcore_dz_iff_decode {c a b : Word} :
    (fxcore c a b).dz = true ↔ (decode c = .legal .divFp ∨ decode c = .legal .divMixed) ∧ b = 0#32 := by
  rw [fxcore_dz_iff, decode_divides_iff, decode_eq_legal_iff, decode_eq_legal_iff]
  rfl

/-- Settles O32: the effect by `exec_of_divides_zero`, its one source by `exec_raises_of_dz_ne`, and FXCORE's outputs
by their own lemmas. -/
theorem divideByZeroRule : Obligations.DivideByZeroRule := by
  refine ⟨fun s hb => ⟨exec_of_divides_zero rfl hb, exec_of_divides_zero rfl hb⟩, fun i s t h hdz => ?_,
    fun _ _ _ => fxcore_dz_iff_decode, fun _ _ _ hdz => fxcore_y_of_fault (.inr hdz)⟩
  obtain ⟨hi, hb, rfl⟩ := exec_raises_of_dz_ne h hdz
  exact ⟨instr_divides_iff.mp hi, hb, rfl⟩

/-! ### IllegalCommand (R83) -/

/-- The illegal words by the two fields of R50: RSVD is not 0, or OP is reserved. -/
theorem decode_illegal_iff_fields {c : Word} :
    (∃ why, decode c = .illegal why) ↔ rsvdField c ≠ 0#28 ∨ 0xB ≤ (opField c).toNat := by
  have hc := word_toNat_eq_fields c
  have hop := (opField c).isLt
  rw [decode_illegal_iff, Ne, ← BitVec.toNat_inj, BitVec.toNat_zero]
  omega

/-- A command that changes ILL has an illegal word: a legal one writes RES or sets DZ. -/
theorem exists_decode_illegal_of_ill_ne {c : Word} {s t : State} (h : performCommand c s = .next t)
    (hill : t.ill ≠ s.ill) : ∃ why, decode c = .illegal why := by
  obtain ⟨_, y, -, -, rfl⟩ | ⟨_, -, -, -, rfl⟩ | ⟨why, hd, -⟩ := performCommand_cases h
  · exact absurd (State.writeResult_ill s y) hill
  · exact absurd (State.raise_divideByZero_ill s) hill
  · exact ⟨why, hd⟩

/-- Settles O33: FXCORE and the command by their equations for an illegal word, and the one source of a change of ILL by
`exists_decode_illegal_of_ill_ne`. -/
theorem illegalCommandRule : Obligations.IllegalCommandRule := by
  refine ⟨fun c a b hc => ?_, fun c s hc => ?_, fun c s t h hill =>
    decode_illegal_iff_fields.mp (exists_decode_illegal_of_ill_ne h hill)⟩
  · obtain ⟨_, hd⟩ := decode_illegal_iff.mpr hc
    exact fxcore_of_illegal hd a b
  · obtain ⟨_, hd⟩ := decode_illegal_iff_fields.mpr hc
    exact performCommand_of_illegal hd

end Sys2Proof.Machine
end

/-! ## Proofs: the register window and the step (20_memory.md, 60_exceptions.md) -/

section

namespace Sys2Proof.Machine

/-! ### Every command and every write of a register completes (R81) -/

/-- The state a command leaves: RES, DZ and ILL as FXCORE says (R81, R90). -/
def State.afterCommand (c : Word) (s : State) : State :=
  let o := fxcore c s.opa s.opb
  { s with
    res := if o.ill || o.dz then s.res else o.y
    dz := s.dz || o.dz
    ill := s.ill || o.ill }

theorem performCommand_eq (c : Word) (s : State) : performCommand c s = .next (s.afterCommand c) := by
  rw [commandAgreesWithFxcore c s]
  obtain ⟨_, -, hf⟩ | ⟨_, -, -, hf⟩ | ⟨_, _, -, -, hf⟩ := fxcore_cases c s.opa s.opb <;>
    simp [State.afterCommand, hf]

/-- A legal command is the command of its own word. -/
theorem performCommand_encode (i : Instr) (s : State) : performCommand (encode i) s = exec i s := by
  simp only [performCommand, decode_encode]

/-- The state a write of a register leaves (R36). -/
def State.afterWrite (r : WindowReg) (v : Word) (s : State) : State :=
  match r with
  | .opa => { s with opa := v }
  | .opb => { s with opb := v }
  | .cmd => s.afterCommand v
  | .res => s
  | .status => s.writeStatus v

theorem writeRegister_eq (r : WindowReg) (v : Word) (s : State) :
    writeRegister r v s = .next (s.afterWrite r v) := by
  cases r with
  | cmd => exact performCommand_eq v s
  | opa | opb | res | status => rfl

section AfterWrite

variable (r : WindowReg) (v : Word) (s : State)

@[simp] theorem State.afterWrite_platform : (s.afterWrite r v).platform = s.platform := by cases r <;> rfl
@[simp] theorem State.afterWrite_pending : (s.afterWrite r v).pending = s.pending := by cases r <;> rfl
@[simp] theorem State.afterWrite_responses : (s.afterWrite r v).responses = s.responses := by cases r <;> rfl

@[simp] theorem State.afterCommand_responses : (s.afterCommand v).responses = s.responses := rfl

end AfterWrite

/-- The state an admitted access leaves: its read answered, or its write acknowledged and done. -/
def State.afterAdmitted (r : WindowReg) (a : Access) (s : State) : State :=
  match a.op with
  | .read => s.respond a.host (.data (readRegister r s))
  | .write v => (s.respond a.host .done).afterWrite r v

theorem performAdmitted_eq (r : WindowReg) (a : Access) (s : State) :
    performAdmitted r a s = .next (s.afterAdmitted r a) := by
  unfold performAdmitted State.afterAdmitted
  cases a.op with
  | read => rfl
  | write v => exact writeRegister_eq r v _

/-! ### The three kinds of access (R35, R38, R39) -/

/-- A malformed access is one in the window that selects no register: `FXP_BASE` is a multiple of 32, so the alignment
of the address is that of the offset. -/
theorem malformed_iff {p : Platform} {a : Access} :
    a.malformed p ↔ ∃ off, windowOffset p a.addr = some off ∧ selectRegister off a.width = none := by
  have hbase : p.base = 32 * p.window := rfl
  unfold Access.malformed
  constructor
  · rintro ⟨hlo, hhi, hbad⟩
    refine ⟨a.addr - p.base, windowOffset_eq_some.mpr (by omega), (selectRegister_eq_none (by omega)).mpr (by omega)⟩
  · rintro ⟨off, ho, hs⟩
    obtain ⟨haddr, hoff⟩ := windowOffset_eq_some.mp ho
    have hbad := (selectRegister_eq_none hoff).mp hs
    omega

/-- Every access is outside the window, malformed, or admitted at one register. -/
theorem access_cases (p : Platform) (a : Access) :
    windowOffset p a.addr = none ∨ a.malformed p ∨ ∃ r : WindowReg, a.width = 4 ∧ a.addr = p.base + r.offset := by
  cases ho : windowOffset p a.addr with
  | none => exact .inl rfl
  | some off =>
    cases hs : selectRegister off a.width with
    | none => exact .inr (.inl (malformed_iff.mpr ⟨off, ho, hs⟩))
    | some r =>
      obtain ⟨hw, rfl⟩ := selectRegister_eq_some.mp hs
      exact .inr (.inr ⟨r, hw, (windowOffset_eq_some.mp ho).1⟩)

section NextAccess

variable {s : State} {a : Access} {rest : List BusEvent}

/-- An access outside the window is taken and nothing else. -/
theorem step_of_outside (hp : s.pending = .access a :: rest) (ho : windowOffset s.platform a.addr = none) :
    step s = .next { s with pending := rest } := by
  simp only [step_cons hp, performEvent, performAccess, ho]

theorem step_of_malformed (hp : s.pending = .access a :: rest) (hm : a.malformed s.platform) :
    step s = raiseBusError a { s with pending := rest } := by
  obtain ⟨off, ho, hs⟩ := malformed_iff.mp hm
  simp only [step_cons hp, performEvent, performAccess, ho, hs]

theorem step_of_malformed_stops (hp : s.pending = .access a :: rest) (hm : a.malformed s.platform)
    (hr : a.onError = .stops) : step s = .fault .busError := by
  simp only [step_of_malformed hp hm, raiseBusError, hr]

theorem step_of_malformed_goesOn (hp : s.pending = .access a :: rest) (hm : a.malformed s.platform)
    (hr : a.onError = .goesOn) :
    step s = .next { s with
      pending := rest
      responses := s.responses ++ [{ host := a.host, reply := .busError }] } := by
  simp only [step_of_malformed hp hm, raiseBusError, hr, State.respond]

theorem step_of_admitted (r : WindowReg) (hp : s.pending = .access a :: rest) (hw : a.width = 4)
    (ha : a.addr = s.platform.base + r.offset) :
    step s = .next (State.afterAdmitted r a { s with pending := rest }) := by
  rw [step_cons hp, ← performAdmitted_eq]
  exact performAccess_admitted r hw ha

/-- What a read answers depends on the registers alone. -/
theorem readRegister_with_host_side (r : WindowReg) (s : State) (q : List BusEvent) (rs : List Response) :
    readRegister r { s with pending := q, responses := rs } = readRegister r s := by
  cases r <;> rfl

theorem step_of_readsAt (r : WindowReg) (hp : s.pending = .access a :: rest) (ha : a.readsAt s.platform r.offset) :
    step s = .next { s with
      pending := rest
      responses := s.responses ++ [{ host := a.host, reply := .data (readRegister r s) }] } := by
  obtain ⟨hop, hw, haddr⟩ := ha
  rw [step_of_admitted r hp hw haddr, State.afterAdmitted, hop, ← readRegister_with_host_side r s rest s.responses]
  rfl

theorem step_of_writesAt (r : WindowReg) {v : Word} (hp : s.pending = .access a :: rest)
    (ha : a.writesAt s.platform r.offset v) :
    step s = writeRegister r v { s with
      pending := rest
      responses := s.responses ++ [{ host := a.host, reply := .done }] } := by
  obtain ⟨hop, hw, haddr⟩ := ha
  rw [step_of_admitted r hp hw haddr, State.afterAdmitted, hop, writeRegister_eq]
  rfl

end NextAccess

/-- A step answers a next state unless its access is malformed and its host stops. -/
theorem step_next_or_stops (s : State) :
    (∃ t, step s = .next t) ∨
      ∃ a rest, s.pending = .access a :: rest ∧ a.malformed s.platform ∧ a.onError = .stops := by
  cases hp : s.pending with
  | nil => exact .inl ⟨s, step_nil hp⟩
  | cons e rest =>
    cases e with
    | reset cut => exact .inl ⟨_, step_cons hp⟩
    | access a =>
      obtain ho | hm | ⟨r, hw, ha⟩ := access_cases s.platform a
      · exact .inl ⟨_, step_of_outside hp ho⟩
      · cases hr : a.onError with
        | stops => exact .inr ⟨a, rest, rfl, hm, hr⟩
        | goesOn => exact .inl ⟨_, step_of_malformed_goesOn hp hm hr⟩
      · exact .inl ⟨_, step_of_admitted r hp hw ha⟩

theorem stepN_succ_of_step {s t : State} {k : Nat} (h : step s = .next t) : stepN (k + 1) s = stepN k t := by
  simp only [stepN, h]

/-! ### The answers to the hosts (R43, R44, R99) -/

/-- The host of an event's access, if it has one. -/
def BusEvent.host? : BusEvent → Option Nat
  | .access a => some a.host
  | .reset cut => cut.map Access.host

theorem busEvent_wellFormed_iff {p : Platform} {e : BusEvent} :
    e.wellFormed p = true ↔ ∀ h ∈ e.host?, h < p.hosts := by
  rcases e with a | (_ | a) <;> simp [BusEvent.wellFormed, BusEvent.host?, Access.wellFormed]

theorem answeredHost_access (p : Platform) (a : Access) :
    (BusEvent.access a).answeredHost p = (windowOffset p a.addr).map fun _ => a.host := by
  rw [windowOffset, apply_ite (Option.map _)]
  rfl

/-- An access keeps the queue and the platform, and is answered once if it is in the window. -/
theorem performAccess_answers {a : Access} {s t : State} (h : performAccess a s = .next t) :
    t.pending = s.pending ∧ t.platform = s.platform ∧ ∃ new, t.responses = s.responses ++ new ∧
      new.map Response.host = ((BusEvent.access a).answeredHost s.platform).toList := by
  rw [answeredHost_access]
  obtain ⟨ho, rfl⟩ | ⟨off, ho, -, -, rfl⟩ | ⟨r, ho, -, ⟨-, rfl⟩ | ⟨v, -, hv⟩⟩ := performAccess_cases h
  · exact ⟨rfl, rfl, [], by simp, by simp [ho]⟩
  · exact ⟨rfl, rfl, [{ host := a.host, reply := .busError }], rfl, by simp [ho]⟩
  · exact ⟨rfl, rfl, [{ host := a.host, reply := .data (readRegister r s) }], rfl, by simp [ho]⟩
  · obtain rfl := Host.Outcome.next.inj ((writeRegister_eq r v _).symm.trans hv)
    exact ⟨by simp, by simp, [{ host := a.host, reply := .done }], by simp, by simp [ho]⟩

/-- A reset keeps the queue and the platform, and answers at most once, the host of the access it cuts. -/
theorem performReset_answers (cut : Option Access) (s : State) :
    (performReset cut s).pending = s.pending ∧ (performReset cut s).platform = s.platform ∧
      ∃ new, (performReset cut s).responses = s.responses ++ new ∧
        (new.map Response.host).Sublist (cut.map Access.host).toList := by
  cases cut with
  | none => exact ⟨rfl, rfl, [], by simp [performReset], by simp⟩
  | some a =>
    simp only [performReset, answerCut]
    split
    · exact ⟨rfl, rfl, [], by simp, by simp⟩
    · exact ⟨rfl, rfl, [], by simp, by simp⟩
    next r _ _ => exact ⟨rfl, rfl, [{ host := a.host, reply := r }], rfl, by simp⟩

/-- A step takes the first event, keeps the platform, and answers at most once, the host of that event. -/
theorem step_answers {s t : State} (h : step s = .next t) :
    t.pending = s.pending.tail ∧ t.platform = s.platform ∧ ∃ new, t.responses = s.responses ++ new ∧
      (new.map Response.host).Sublist (s.pending.head?.bind BusEvent.host?).toList := by
  obtain ⟨hp, rfl⟩ | ⟨a, rest, hp, ha⟩ | ⟨cut, rest, hp, rfl⟩ := step_cases h
  · exact ⟨by simp [hp], rfl, [], by simp, by simp⟩
  · obtain ⟨hpend, hplat, new, hresp, hnew⟩ := performAccess_answers ha
    refine ⟨by rw [hpend, hp, List.tail_cons], hplat, new, hresp, ?_⟩
    rw [hnew, answeredHost_access, hp]
    cases windowOffset s.platform a.addr <;> simp [BusEvent.host?]
  · obtain ⟨hpend, hplat, new, hresp, hnew⟩ := performReset_answers cut { s with pending := rest }
    exact ⟨by rw [hpend, hp, List.tail_cons], hplat, new, hresp, by simpa [hp, BusEvent.host?] using hnew⟩

/-! ### The invariant -/

/-- Settles O57: the events left are among those before, and a new answer goes to the host of the event taken, which the
invariant has among the platform's. -/
theorem everyStepKeepsTheInvariant : Obligations.EveryStepKeepsTheInvariant := by
  rintro s t ⟨hplat, hpend, hresp⟩ h
  obtain ⟨htail, hsame, new, happend, hnew⟩ := step_answers h
  unfold State.Inv
  rw [hsame, htail, happend]
  refine ⟨hplat, fun e he => hpend e (List.mem_of_mem_tail he), fun r hr => ?_⟩
  obtain hold | hmem := List.mem_append.mp hr
  · exact hresp r hold
  · have hhost : r.host ∈ s.pending.head?.bind BusEvent.host? :=
      Option.mem_toList.mp (hnew.subset (List.mem_map_of_mem hmem))
    obtain ⟨e, he, hr⟩ := Option.bind_eq_some_iff.mp hhost
    exact busEvent_wellFormed_iff.mp (hpend e (List.mem_of_mem_head? he)) r.host hr

/-- Settles O56: one host, and both lists empty. -/
theorem resetMeetsTheInvariant : Obligations.ResetMeetsTheInvariant := by
  refine ⟨by decide, ?_, ?_⟩ <;> simp [State.reset]

/-- Settles O48: an answer to at most one host is at most one answer. -/
theorem everyStepTakesOneEvent : Obligations.EveryStepTakesOneEvent := by
  intro s t h
  obtain ⟨htail, hplat, new, happend, hnew⟩ := step_answers h
  refine ⟨htail, hplat, new, happend, ?_⟩
  calc new.length = (new.map Response.host).length := List.length_map _ |>.symm
    _ ≤ (s.pending.head?.bind BusEvent.host?).toList.length := hnew.length_le
    _ ≤ 1 := Option.length_toList_le

end Sys2Proof.Machine
end

/-! ## Proofs: one step at the register window (20_memory.md, 60_exceptions.md, 70_reset_and_hazards.md) -/

section

namespace Sys2Proof.Machine

/-! ### Admitted accesses (R36, R38, R41, R43) -/

/-- Settles O38: reads and writes by the two equations of an admitted access. -/
theorem admittedAccessesReachTheirRegister : Obligations.AdmittedAccessesReachTheirRegister :=
  ⟨rfl, fun _ _ _ r hp ha => step_of_readsAt r hp ha, fun _ _ _ _ r hp ha => step_of_writesAt r hp ha⟩

/-- A CMD write is its command, at the state with the event taken and the write acknowledged. -/
theorem step_of_commandWrite {s : State} {a : Access} {rest : List BusEvent} {c : Word}
    (hp : s.pending = .access a :: rest) (ha : a.writesAt s.platform 0x08 c) :
    step s = performCommand c { s with
      pending := rest
      responses := s.responses ++ [{ host := a.host, reply := .done }] } :=
  step_of_writesAt .cmd hp ha

/-- Settles O29: the command leaves what FXCORE says, and its operands are those of the state before the step. -/
theorem commandStepAgreesWithFxcore : Obligations.CommandStepAgreesWithFxcore := by
  intro s a rest c hp ha
  rw [step_of_commandWrite hp ha, performCommand_eq]
  rfl

/-- Settles O37: a legal word's command is `exec`, and `withFetchWord` places a CMD write of host 0. -/
theorem stepRunsTheDecodedCommand : Obligations.StepRunsTheDecodedCommand := by
  constructor
  · intro s a rest c i hp ha hd
    rw [step_of_commandWrite hp ha, decode_eq_legal_iff.mp hd, performCommand_encode]
  · intro s i
    have hword : BitVec.ofNat 32 ((encode i).toNat % 2 ^ 32) = encode i := by
      rw [Nat.mod_eq_of_lt (encode i).isLt, BitVec.ofNat_toNat, BitVec.setWidth_eq]
    have ha : (commandWrite s.platform (BitVec.ofNat 32 ((encode i).toNat % 2 ^ 32))).writesAt s.platform 0x08
        (encode i) := ⟨by rw [hword]; rfl, rfl, rfl⟩
    rw [step_of_commandWrite (s := s.withFetchWord 32 (encode i).toNat) rfl ha, performCommand_encode]
    rfl

/-- Settles O40: CMD by the register map and the equation of a read; two illegal words raise the same fault. -/
theorem commandRegisterRule : Obligations.CommandRegisterRule := by
  refine ⟨rfl, fun _ => rfl, fun _ _ => rfl, fun _ _ _ hp ha => step_of_readsAt .cmd hp ha, fun _ _ _ _ => rfl,
    fun c c' s hc hc' => ?_⟩
  obtain ⟨_, hd⟩ := decode_illegal_iff.mpr hc
  obtain ⟨_, hd'⟩ := decode_illegal_iff.mpr hc'
  rw [performCommand_of_illegal hd, performCommand_of_illegal hd']

/-- A read whose host goes on is taken and at most answered. -/
theorem step_of_read {s : State} {a : Access} {rest : List BusEvent} (hp : s.pending = .access a :: rest)
    (hop : a.op = .read) (hr : a.onError = .goesOn) :
    ∃ new, step s = .next { s with pending := rest, responses := s.responses ++ new } := by
  obtain ho | hm | ⟨r, hw, ha⟩ := access_cases s.platform a
  · exact ⟨[], by rw [step_of_outside hp ho, List.append_nil]⟩
  · exact ⟨_, step_of_malformed_goesOn hp hm hr⟩
  · exact ⟨_, step_of_readsAt r hp ⟨hop, hw, ha⟩⟩

/-- Settles O45: one read by `step_of_read`; the second of two reads finds the registers as the first did. -/
theorem readsHaveNoSideEffect : Obligations.ReadsHaveNoSideEffect := by
  refine ⟨fun _ _ _ => step_of_read, fun _ => ⟨rfl, rfl, rfl, rfl, rfl⟩, fun s a a' rest r hp ha ha' => ?_⟩
  refine Eq.trans (stepN_succ_of_step (step_of_readsAt r hp ha)) ?_
  refine Eq.trans (stepN_succ_of_step (step_of_readsAt r rfl ha')) ?_
  rw [readRegister_with_host_side, List.append_assoc]
  rfl

/-! ### Outside the window, and malformed accesses (R35, R84, R86) -/

/-- Settles O47: such an address has no offset. -/
theorem noResponseOutsideTheWindow : Obligations.NoResponseOutsideTheWindow :=
  fun _ _ _ hp ho => step_of_outside hp (windowOffset_eq_none.mpr ho)

/-- Settles O34: the two reactions by their equations, and no other stop by `step_next_or_stops`. -/
theorem busErrorRule : Obligations.BusErrorRule := by
  refine ⟨fun _ _ _ => step_of_malformed_stops, fun _ _ _ => step_of_malformed_goesOn, fun s f h => ?_, fun s r h => ?_⟩
  · obtain ⟨t, hnext⟩ | hstops := step_next_or_stops s
    · exact nomatch hnext.symm.trans h
    · exact hstops
  · obtain ⟨t, hnext⟩ | ⟨a, rest, hp, hm, hr⟩ := step_next_or_stops s
    · exact nomatch hnext.symm.trans h
    · exact nomatch (step_of_malformed_stops hp hm hr).symm.trans h

/-- FXCORE never gives both faults. -/
theorem fxcore_not_ill_and_dz (c a b : Word) : ¬ ((fxcore c a b).ill = true ∧ (fxcore c a b).dz = true) := by
  obtain ⟨_, -, hf⟩ | ⟨_, -, -, hf⟩ | ⟨_, _, -, -, hf⟩ := fxcore_cases c a b <;> simp [hf]

/-- Settles O35: BusError by the equation of a malformed access, IllegalCommand by that of an illegal word, and the rest
by the outcomes of FXCORE. -/
theorem faultPriority : Obligations.FaultPriority := by
  refine ⟨fun _ _ _ hp _ _ => step_of_malformed_goesOn hp, fun s a rest hp ha _ => ?_, fxcore_not_ill_and_dz,
    fun _ _ _ hdz => (fxcore_dz_iff_decode.mp hdz).1⟩
  have hd : decode 0x00000019#32 = .illegal .reservedField := by decide
  exact ⟨_, (step_of_commandWrite hp ha).trans (performCommand_of_illegal hd), rfl, rfl, rfl⟩

/-! ### Reset (R98, R99) -/

/-- Settles O2: both steps by the equation of a step with an event pending. -/
theorem resetStepClearsAndGoesOn : Obligations.ResetStepClearsAndGoesOn := by
  refine fun s rest hp => ⟨step_cons hp, fun t e rest' h hrest => ?_⟩
  obtain rfl := Host.Outcome.next.inj ((step_cons hp).symm.trans h)
  exact step_cons hrest

/-- Settles O3: the answers by `step_answers`, the registers by `performReset_spec`, and an access performed first keeps
the queue, while reset overrides the registers it leaves. -/
theorem resetOverridesTheAccessItCuts : Obligations.ResetOverridesTheAccessItCuts := by
  intro s a rest hp
  have hstep : step s = .next (performReset (some a) { s with pending := rest }) := step_cons hp
  obtain ⟨-, -, new, happend, hnew⟩ := step_answers hstep
  have hhosts : (new.map Response.host).Sublist [a.host] := by simpa [hp, BusEvent.host?] using hnew
  obtain ⟨k, rs, hreset, -⟩ := performReset_spec (some a) { s with pending := rest }
  rw [hreset] at hstep happend
  refine ⟨_, new, hstep, ⟨rfl, rfl, rfl, rfl, rfl⟩, rfl, rfl, happend, ?_, fun r hr => ?_, fun u hu => ?_⟩
  · simpa using hhosts.length_le
  · simpa using hhosts.subset (List.mem_map_of_mem hr)
  · exact ⟨rfl, rfl, rfl, rfl, rfl, (performAccess_answers hu).1⟩

end Sys2Proof.Machine
end

/-! ## Proofs: what commands change and what they leave (60_exceptions.md, 10_state.md) -/

section

namespace Sys2Proof.Machine

/-- Settles O30: an operation without a result is a division by 0. -/
theorem operationsCompleteWithoutReport : Obligations.OperationsCompleteWithoutReport := by
  intro i s hdiv
  have hsome : operation i s.opa s.opb ≠ none := fun hn =>
    have ⟨hi, hb⟩ := operation_eq_none.mp hn
    hdiv (instr_divides_iff.mp hi) hb
  obtain ⟨y, hy⟩ := Option.ne_none_iff_exists'.mp hsome
  exact ⟨y, exec_of_operation_some hy⟩

/-- What a command leaves alone: the operands, the platform and the host's side of the bus. -/
structure CommandKeeps (s t : State) : Prop where
  opa : t.opa = s.opa
  opb : t.opb = s.opb
  platform : t.platform = s.platform
  pending : t.pending = s.pending
  responses : t.responses = s.responses
  cuts : t.cuts = s.cuts

theorem performCommand_keeps {c : Word} {s t : State} (h : performCommand c s = .next t) : CommandKeeps s t := by
  obtain rfl := Host.Outcome.next.inj ((performCommand_eq c s).symm.trans h)
  exact ⟨rfl, rfl, rfl, rfl, rfl, rfl⟩

/-- The registers other than RES and STATUS are the operand registers and CMD, which holds nothing. -/
theorem CommandKeeps.readRegister {s t : State} (h : CommandKeeps s t) {r : WindowReg} (hres : r ≠ .res)
    (hstatus : r ≠ .status) : readRegister r t = readRegister r s := by
  cases r with
  | opa => exact h.opa
  | opb => exact h.opb
  | cmd => rfl
  | res => exact absurd rfl hres
  | status => exact absurd rfl hstatus

/-- A command changes RES, or sets DZ, or sets ILL, and each alone. -/
theorem performCommand_changes_one {c : Word} {s t : State} (h : performCommand c s = .next t) :
    (t.dz = s.dz ∧ t.ill = s.ill) ∨ (t.dz = true ∧ t.ill = s.ill ∧ t.res = s.res) ∨
      (t.ill = true ∧ t.dz = s.dz ∧ t.res = s.res) := by
  obtain ⟨_, _, -, -, rfl⟩ | ⟨_, -, -, -, rfl⟩ | ⟨_, -, rfl⟩ := performCommand_cases h <;> simp

theorem exec_ill {i : Instr} {s t : State} (h : exec i s = .next t) : t.ill = s.ill := by
  obtain ⟨_, -, rfl⟩ | ⟨-, -, rfl⟩ := exec_cases h <;> simp

theorem exec_dz_cases {i : Instr} {s t : State} (h : exec i s = .next t) :
    t.dz = s.dz ∨ (t.dz = true ∧ t.res = s.res) := by
  obtain ⟨_, -, rfl⟩ | ⟨-, -, rfl⟩ := exec_cases h <;> simp

/-- Settles O31: the frame by `performCommand_keeps`, also for an operation, which is the command of its own word. -/
theorem commandFrame : Obligations.CommandFrame := by
  constructor
  · intro c s t h
    have hk := performCommand_keeps h
    exact ⟨hk.opa, hk.opb, hk.platform, hk.pending, hk.responses, hk.cuts, fun _ => hk.readRegister,
      performCommand_changes_one h⟩
  · intro i s t h
    have hk := performCommand_keeps ((performCommand_encode i s).trans h)
    exact ⟨hk.opa, hk.opb, exec_ill h, hk.platform, hk.pending, hk.responses, hk.cuts, exec_dz_cases h,
      fun _ => hk.readRegister⟩

/-- A command from a state with other STATUS bits leaves the same RES, and its own faults beside those bits. -/
theorem performCommand_with_status {c : Word} {s t : State} (d e : Bool) (h : performCommand c s = .next t) :
    performCommand c { s with dz := d, ill := e } = .next { t with
      dz := d || (fxcore c s.opa s.opb).dz
      ill := e || (fxcore c s.opa s.opb).ill } := by
  obtain rfl := Host.Outcome.next.inj ((performCommand_eq c s).symm.trans h)
  exact performCommand_eq c _

/-- Settles O36: the bits a command adds are FXCORE's faults; an operation is the command of its own word, which is
legal. -/
theorem stickyBitsStopNothing : Obligations.StickyBitsStopNothing := by
  constructor
  · intro c s d e t h
    refine ⟨_, performCommand_with_status d e h, rfl, rfl, rfl, ?_, ?_⟩
    · rw [← fxcore_dz_iff_decode, Bool.or_eq_true]
    · rw [← fxcore_ill_iff, Bool.or_eq_true]
  · intro i s d e t h
    rw [← performCommand_encode] at h ⊢
    refine ⟨_, performCommand_with_status d e h, rfl, rfl, rfl, ?_, ?_⟩
    · simp [fxcore_ill_iff]
    · rw [Bool.or_eq_true, fxcore_dz_iff_decode, decode_encode]
      simp

/-- Settles O41: a command whose FXCORE faults writes no result. -/
theorem resultRegisterAccess : Obligations.ResultRegisterAccess := by
  refine ⟨rfl, fun _ => rfl, fun _ _ => rfl, fun c s t h hf => ?_, rfl⟩
  obtain rfl := Host.Outcome.next.inj ((performCommand_eq c s).symm.trans h)
  exact if_pos (by rw [Bool.or_eq_true]; exact hf.symm)

end Sys2Proof.Machine
end

/-! ## Proofs: whole runs (20_memory.md R44, 70_reset_and_hazards.md) -/

section

namespace Sys2Proof.Machine

/-! ### Serving a list of events, one by one -/

theorem serve_eq_stepN {q : List BusEvent} {s : State} (hp : s.pending = q) : serve q s = stepN q.length s := by
  subst hp
  rfl

/-- Serving a list is a step with it pending and serving its tail: the step leaves just the tail pending. -/
theorem serve_cons_of_step {e : BusEvent} {q : List BusEvent} {s t : State}
    (h : step { s with pending := e :: q } = .next t) : serve (e :: q) s = serve q t := by
  have htail : t.pending = q := (step_answers h).1
  rw [serve_eq_stepN htail]
  exact stepN_succ_of_step h

theorem serve_cons_eq_next {e : BusEvent} {q : List BusEvent} {s u : State} (h : serve (e :: q) s = .next u) :
    ∃ t, step { s with pending := e :: q } = .next t ∧ serve q t = .next u := by
  cases hstep : step { s with pending := e :: q } with
  | next t => exact ⟨t, rfl, (serve_cons_of_step hstep).symm.trans h⟩
  | fault f => simp [serve, stepN, hstep] at h
  | refused r => simp [serve, stepN, hstep] at h

/-- Settles O49: a harmless event is served, and the platform, by which the rest are harmless, is kept. -/
theorem safeRunsComplete : Obligations.SafeRunsComplete := by
  intro q
  induction q with
  | nil => exact fun s _ => ⟨{ s with pending := [] }, rfl, rfl, rfl⟩
  | cons e q ih =>
    intro s hsafe
    obtain ⟨hharmless, hrest⟩ := List.forall_mem_cons.mp hsafe
    obtain ⟨t, hstep⟩ | ⟨a, rest, hp, hm, hstops⟩ := step_next_or_stops { s with pending := e :: q }
    · obtain ⟨-, hplat, -⟩ := step_answers hstep
      obtain ⟨u, hserve, hend, hsame⟩ := ih t (hplat ▸ hrest)
      exact ⟨u, (serve_cons_of_step hstep).trans hserve, hend, hsame.trans hplat⟩
    · cases hp
      exact nomatch hstops.symm.trans (hharmless hm)

/-! ### What an event leaves in the operand registers and in RES (R22, R23, R25) -/

theorem setsOperand_eq_some {p : Platform} {a : Access} {off : Nat} {v : Word} :
    (BusEvent.access a).setsOperand p off = some v ↔ a.writesAt p off v := by
  cases hop : a.op with
  | read => simp [BusEvent.setsOperand, Access.writesAt, hop]
  | write w => simp [BusEvent.setsOperand, Access.writesAt, hop, and_comm]

/-- A write of one register leaves a word at that register's offset only. -/
theorem setsOperand_of_writesAt {p : Platform} {a : Access} {r : WindowReg} {v : Word} (ha : a.writesAt p r.offset v)
    (r' : WindowReg) : (BusEvent.access a).setsOperand p r'.offset = if r = r' then some v else none := by
  split
  next heq => exact setsOperand_eq_some.mpr (heq ▸ ha)
  next hne =>
    refine Option.eq_none_iff_forall_not_mem.mpr fun w hw => hne (windowReg_offset_injective ?_)
    obtain ⟨-, -, haddr⟩ := ha
    obtain ⟨-, -, haddr'⟩ := setsOperand_eq_some.mp hw
    omega

/-- An access that writes no register leaves no word. -/
theorem setsOperand_eq_none {p : Platform} {a : Access} {off : Nat} (h : ∀ v, ¬ a.writesAt p off v) :
    (BusEvent.access a).setsOperand p off = none :=
  Option.eq_none_iff_forall_not_mem.mpr fun v hv => h v (setsOperand_eq_some.mp hv)

/-- The result of a command that completes without a fault. -/
def faultFreeResult (c a b : Word) : Option Word :=
  let o := fxcore c a b
  if o.ill || o.dz then none else some o.y

/-- An access leaves a word in RES if it writes a command to CMD that completes without a fault. -/
theorem setsResult_access (s : State) (before : List BusEvent) (a : Access) :
    (BusEvent.access a).setsResult s before = ((BusEvent.access a).setsOperand s.platform 0x08).bind fun c =>
      faultFreeResult c (latestOperand s.platform 0x00 before s.opa) (latestOperand s.platform 0x04 before s.opb) := by
  cases hop : a.op with
  | read => simp only [BusEvent.setsResult, BusEvent.setsOperand, hop, Option.bind_none]
  | write c =>
    simp only [BusEvent.setsResult, BusEvent.setsOperand, hop]
    split <;> rfl

theorem afterCommand_res (c : Word) (s : State) :
    (s.afterCommand c).res = (faultFreeResult c s.opa s.opb).getD s.res := by
  rw [faultFreeResult, apply_ite (Option.getD · s.res)]
  rfl

/-- What a write of a register leaves in OPA, OPB and RES. -/
theorem afterWrite_registers (r : WindowReg) (v : Word) (s : State) :
    (s.afterWrite r v).opa = (if r = .opa then some v else none).getD s.opa ∧
      (s.afterWrite r v).opb = (if r = .opb then some v else none).getD s.opb ∧
      (s.afterWrite r v).res
        = ((if r = .cmd then some v else none).bind (faultFreeResult · s.opa s.opb)).getD s.res := by
  cases r with
  | cmd => exact ⟨rfl, rfl, afterCommand_res v s⟩
  | opa | opb | res | status => exact ⟨rfl, rfl, rfl⟩

/-- An access leaves in OPA and OPB the word it writes there, and in RES the result of the command it writes to CMD. -/
theorem step_access_registers {a : Access} {rest : List BusEvent} {s t : State} (hp : s.pending = .access a :: rest)
    (h : step s = .next t) :
    t.opa = ((BusEvent.access a).setsOperand s.platform WindowReg.opa.offset).getD s.opa ∧
      t.opb = ((BusEvent.access a).setsOperand s.platform WindowReg.opb.offset).getD s.opb ∧
      t.res = (((BusEvent.access a).setsOperand s.platform WindowReg.cmd.offset).bind
        (faultFreeResult · s.opa s.opb)).getD s.res := by
  obtain ⟨r, v, rest', rs, hw, hv⟩ | ⟨hr, -⟩ | ⟨hw, -, rest', rs, rfl⟩ := step_register_cases h
  · have hsets := setsOperand_of_writesAt ((nextWrites_of_access hp).mp hw)
    obtain rfl := Host.Outcome.next.inj ((writeRegister_eq r v _).symm.trans hv)
    rw [hsets, hsets, hsets]
    exact afterWrite_registers r v _
  · exact absurd hr (not_nextResets_of_access hp)
  · have hnone (r : WindowReg) : (BusEvent.access a).setsOperand s.platform r.offset = none :=
      setsOperand_eq_none fun v hv => hw r v ((nextWrites_of_access hp).mpr hv)
    rw [hnone, hnone, hnone]
    exact ⟨rfl, rfl, rfl⟩

/-- A step leaves in OPA, OPB and RES the words of the event it takes, and else what they held. -/
theorem step_registers {e : BusEvent} {rest : List BusEvent} {s t : State} (hp : s.pending = e :: rest)
    (h : step s = .next t) :
    t.opa = (e.setsOperand s.platform 0x00).getD s.opa ∧ t.opb = (e.setsOperand s.platform 0x04).getD s.opb ∧
      t.res = (e.setsResult s []).getD s.res := by
  cases e with
  | reset cut =>
    have ht : performReset cut { s with pending := rest } = t := Host.Outcome.next.inj ((step_cons hp).symm.trans h)
    obtain ⟨k, new, hreset, -⟩ := performReset_spec cut { s with pending := rest }
    rw [← ht, hreset]
    exact ⟨rfl, rfl, rfl⟩
  | access a =>
    rw [setsResult_access]
    exact step_access_registers hp h

/-! ### The latest words over a whole run -/

theorem latestOperand_cons (p : Platform) (off : Nat) (e : BusEvent) (q : List BusEvent) (init : Word) :
    latestOperand p off (e :: q) init = latestOperand p off q ((e.setsOperand p off).getD init) := by
  unfold latestOperand
  cases he : e.setsOperand p off with
  | none => simp [List.filterMap_cons_none he]
  | some v => simp [List.filterMap_cons_some he, List.getLast?_cons]

/-- Settles O50: each step leaves the word of its event, if it has one, for the rest to overwrite. -/
theorem operandsHoldTheLatestWrite : Obligations.OperandsHoldTheLatestWrite := by
  intro q
  induction q with
  | nil =>
    rintro s t h
    cases h
    exact ⟨rfl, rfl⟩
  | cons e q ih =>
    intro s u h
    obtain ⟨t, hstep, hserve⟩ := serve_cons_eq_next h
    obtain ⟨-, hplat, -⟩ := step_answers hstep
    obtain ⟨hopa, hopb, -⟩ := step_registers rfl hstep
    obtain ⟨hua, hub⟩ := ih t u hserve
    rw [latestOperand_cons, latestOperand_cons, hua, hub, hopa, hopb, hplat]
    exact ⟨rfl, rfl⟩

/-- What an event leaves in RES after one more event before it is what it leaves from the state after that event. -/
theorem setsResult_cons {e e' : BusEvent} {q before : List BusEvent} {s t : State}
    (h : step { s with pending := e :: q } = .next t) :
    e'.setsResult s (e :: before) = e'.setsResult t before := by
  cases e' with
  | reset cut => rfl
  | access a =>
    obtain ⟨-, hplat, -⟩ := step_answers h
    obtain ⟨hopa, hopb, -⟩ := step_registers rfl h
    rw [setsResult_access, setsResult_access, latestOperand_cons, latestOperand_cons, hopa, hopb, hplat]

/-- RES is kept by events of which none leaves a word in it. -/
theorem serve_res_of_none {q : List BusEvent} {s t : State} (h : serve q s = .next t)
    (hnone : ∀ p e r, q = p ++ e :: r → e.setsResult s p = none) : t.res = s.res := by
  induction q generalizing s with
  | nil => cases h; rfl
  | cons e q ih =>
    obtain ⟨u, hstep, hserve⟩ := serve_cons_eq_next h
    obtain ⟨-, -, hres⟩ := step_registers rfl hstep
    have hkept : u.res = s.res := hres.trans (congrArg (Option.getD · s.res) (hnone [] e q rfl))
    refine (ih hserve fun p e' r hq => ?_).trans hkept
    rw [← setsResult_cons hstep]
    exact hnone (e :: p) e' r (congrArg (e :: ·) hq)

/-- RES is the word an event left in it, if no later event leaves one. -/
theorem serve_res_of_some {before after : List BusEvent} {e : BusEvent} {s t : State} {y : Word}
    (h : serve (before ++ e :: after) s = .next t) (hsome : e.setsResult s before = some y)
    (hnone : ∀ p e' r, after = p ++ e' :: r → e'.setsResult s (before ++ e :: p) = none) : t.res = y := by
  induction before generalizing s with
  | nil =>
    obtain ⟨u, hstep, hserve⟩ := serve_cons_eq_next h
    obtain ⟨-, -, hres⟩ := step_registers rfl hstep
    have hleft : u.res = y := hres.trans (congrArg (Option.getD · s.res) hsome)
    refine (serve_res_of_none hserve fun p e' r hq => ?_).trans hleft
    rw [← setsResult_cons hstep]
    exact hnone p e' r hq
  | cons e0 before ih =>
    obtain ⟨u, hstep, hserve⟩ := serve_cons_eq_next h
    refine ih hserve ((setsResult_cons hstep).symm.trans hsome) fun p e' r hq => ?_
    rw [← setsResult_cons hstep]
    exact hnone p e' r hq

/-- Settles O51: the event that left the word by `serve_res_of_some`, none by `serve_res_of_none`. -/
theorem resultIsOfTheLatestCompletedCommand : Obligations.ResultIsOfTheLatestCompletedCommand :=
  ⟨fun _ _ _ _ _ _ => serve_res_of_some, fun _ _ _ => serve_res_of_none⟩

/-- Settles O52: each access adds the answer to its own host, if it is in the window. -/
theorem everyAccessIsAnsweredOnceInOrder : Obligations.EveryAccessIsAnsweredOnceInOrder := by
  intro q
  induction q with
  | nil =>
    rintro s t h -
    cases h
    simp
  | cons e q ih =>
    intro s u h hall
    obtain ⟨⟨a, rfl⟩, hrest⟩ := List.forall_mem_cons.mp hall
    obtain ⟨t, hstep, hserve⟩ := serve_cons_eq_next h
    have haccess : performAccess a { s with pending := q } = .next t := hstep
    obtain ⟨-, hplat, new, happend, hnew⟩ := performAccess_answers haccess
    rw [ih t u hserve hrest, happend, List.map_append, hnew, hplat, List.append_assoc]
    cases hans : (BusEvent.access a).answeredHost s.platform with
    | none => simp [List.filterMap_cons_none hans]
    | some k => simp [List.filterMap_cons_some hans]

end Sys2Proof.Machine
end

/-! ## Proofs: one operation in the order of R102 (70_reset_and_hazards.md) -/

section

namespace Sys2Proof.Machine

/-- A write transaction is served by the register's write and an acknowledgement. -/
theorem serve_write {p : Platform} (r : WindowReg) (v : Word) (h : Nat) (re : HostReaction) (q : List BusEvent)
    {s : State} (hp : s.platform = p) :
    serve (.access ((Transaction.write r.offset v).access p h re) :: q) s
      = serve q ((s.afterWrite r v).respond h .done) := by
  subst hp
  have hstep := (step_of_writesAt (s := { s with pending := .access (Transaction.access s.platform h re
    (.write r.offset v)) :: q }) r rfl ⟨rfl, rfl, rfl⟩).trans (writeRegister_eq r v _)
  rw [serve_cons_of_step hstep]
  cases r <;> rfl

/-- A read transaction is served by its answer. -/
theorem serve_read {p : Platform} (r : WindowReg) (h : Nat) (re : HostReaction) (q : List BusEvent)
    {s : State} (hp : s.platform = p) :
    serve (.access ((Transaction.read r.offset).access p h re) :: q) s
      = serve q (s.respond h (.data (readRegister r s))) := by
  subst hp
  rw [serve_cons_of_step (step_of_readsAt r rfl ⟨rfl, rfl, rfl⟩), readRegister_with_host_side]
  rfl

/-- The accesses of R102 before the CMD write: STATUS is cleared, and the operands the operation takes are written. -/
def operandWrites (p : Platform) (h : Nat) (re : HostReaction) (i : Instr) (a b : Word) : List BusEvent :=
  [.access ((Transaction.write 0x10 0x00000003#32).access p h re),
    .access ((Transaction.write 0x00 a).access p h re)] ++
    if i.unary then [] else [.access ((Transaction.write 0x04 b).access p h re)]

/-- The accesses of R102 from the CMD write on. -/
def commandAndReads (p : Platform) (h : Nat) (re : HostReaction) (i : Instr) : List BusEvent :=
  [.access ((Transaction.write 0x08 (encode i)).access p h re), .access ((Transaction.read 0x10).access p h re),
    .access ((Transaction.read 0x0C).access p h re)]

theorem fxcore_encode_congr_of_unary {i : Instr} (hu : i.unary = true) (a b b' : Word) :
    fxcore (encode i) a b = fxcore (encode i) a b' := by
  simp only [fxcore, decode_encode, operation_congr_of_unary hu a b b']

/-- The writes before the CMD write are acknowledged, clear STATUS, leave RES, and leave the operands of the operation:
a unary one does not look at the OPB that was there. -/
theorem serve_operandWrites {p : Platform} (h : Nat) (re : HostReaction) (i : Instr) (a b : Word) (q : List BusEvent)
    {s : State} (hp : s.platform = p) :
    ∃ t, serve (operandWrites p h re i a b ++ q) s = serve q t ∧ t.platform = p ∧ t.dz = false ∧ t.ill = false ∧
      t.res = s.res ∧ fxcore (encode i) t.opa t.opb = fxcore (encode i) a b ∧
      t.responses = s.responses ++
        List.replicate (operandWrites p h re i a b).length { host := h, reply := .done } := by
  have hserve (q' : List BusEvent) := Eq.trans
    (serve_write .status 0x00000003#32 h re (.access ((Transaction.write 0x00 a).access p h re) :: q') hp)
    (serve_write .opa a h re q' (by simpa using hp))
  unfold operandWrites
  cases hu : i.unary with
  | true =>
    exact ⟨_, hserve q, hp, Bool.and_false _, Bool.and_false _, rfl, fxcore_encode_congr_of_unary hu a _ _, by simp⟩
  | false =>
    exact ⟨_, (hserve _).trans (serve_write .opb b h re q (by simpa using hp)), hp, Bool.and_false _,
      Bool.and_false _, rfl, rfl, by simp⟩

/-- The command is acknowledged, whether it faults or not, and the reads answer STATUS and RES as it left them. -/
theorem serve_commandAndReads {p : Platform} (h : Nat) (re : HostReaction) (i : Instr) {s : State}
    (hp : s.platform = p) :
    ∃ t, serve (commandAndReads p h re i) s = .next t ∧
      t.responses = s.responses ++ [{ host := h, reply := .done },
        { host := h, reply := .data (s.afterCommand (encode i)).statusWord },
        { host := h, reply := .data (s.afterCommand (encode i)).res }] := by
  have hserve := Eq.trans (serve_write .cmd (encode i) h re
      [.access ((Transaction.read 0x10).access p h re), .access ((Transaction.read 0x0C).access p h re)] hp)
    (Eq.trans (serve_read .status h re [.access ((Transaction.read 0x0C).access p h re)] (by simpa using hp))
      (serve_read .res h re [] (by simpa using hp)))
  exact ⟨_, hserve, by simp [readRegister, State.afterWrite, State.statusWord]⟩

/-- With STATUS clear, the command of an operation leaves DZ alone of STATUS set, and the older RES, if it divides by 0,
and else STATUS 0 and its result. -/
theorem afterCommand_encode_reads {i : Instr} {s : State} (hdz : s.dz = false) (hill : s.ill = false) :
    ((fxcore (encode i) s.opa s.opb).dz = false → (s.afterCommand (encode i)).statusWord = 0x00000000#32 ∧
        (s.afterCommand (encode i)).res = (fxcore (encode i) s.opa s.opb).y) ∧
      ((fxcore (encode i) s.opa s.opb).dz = true → (s.afterCommand (encode i)).statusWord = 0x00000001#32 ∧
        (s.afterCommand (encode i)).res = s.res) := by
  have hlegal : (fxcore (encode i) s.opa s.opb).ill = false := by
    simp [Bool.eq_false_iff, fxcore_ill_iff]
  constructor <;> intro hcore <;> simp [State.afterCommand, State.statusWord, hdz, hill, hlegal, hcore]

theorem fxcore_encode_dz_iff {i : Instr} {a b : Word} :
    (fxcore (encode i) a b).dz = true ↔ (i = .divFp ∨ i = .divMixed) ∧ b = 0#32 := by
  rw [fxcore_dz_iff_decode, decode_encode]
  simp

/-- Settles O53: the operands by `serve_operandWrites`, the command and the reads by `serve_commandAndReads`. -/
theorem oneOperationInTheOrderOfR102 : Obligations.OneOperationInTheOrderOfR102 := by
  intro s i a b h re acc q zero
  obtain ⟨t, hwrites, hplat, hdz, hill, hres, hcore, hacks⟩ :=
    serve_operandWrites h re i a b (commandAndReads s.platform h re i) (s := s) rfl
  obtain ⟨u, hreads, hresp⟩ := serve_commandAndReads h re i hplat
  obtain ⟨hok, hfault⟩ := afterCommand_encode_reads (i := i) hdz hill
  rw [hcore] at hok hfault
  refine ⟨u, _, _, List.replicate ((operandWrites s.platform h re i a b).length + 1) { host := h, reply := .done },
    hwrites.trans hreads, ?_, ?_, fun k => List.eq_of_mem_replicate, fun hz => hok ?_, fun hz => ?_⟩
  · rw [hresp, hacks, List.replicate_succ']
    simp
  · rw [List.length_replicate]
    exact (List.length_append (as := operandWrites s.platform h re i a b)
      (bs := commandAndReads s.platform h re i)).symm
  · exact Bool.eq_false_iff.mpr fun hcoredz => hz (fxcore_encode_dz_iff.mp hcoredz)
  · obtain ⟨hst, hr⟩ := hfault (fxcore_encode_dz_iff.mpr hz)
    exact ⟨hst, hr.trans hres⟩

end Sys2Proof.Machine
end

/-! ## Proofs: hosts renamed and the window moved (20_memory.md R35, R48, 92_eei_decisions.md D9, D17) -/

section

namespace Sys2Proof.Machine

/-! ### Both changes at once: hosts renamed by `f` and the window moved by `k` -/

/-- A state with its hosts renamed and its window moved. -/
def State.relabel (f : Nat → Nat) (k : Nat) (s : State) : State := (s.rename f).move k

/-- An access with its host renamed and moved along with the window. -/
def Access.relabel (f : Nat → Nat) (k : Nat) (a : Access) : Access := (a.rename f).move k

/-- An event with its host renamed and moved along with the window. -/
def BusEvent.relabel (f : Nat → Nat) (k : Nat) (e : BusEvent) : BusEvent := (e.rename f).move k

/-- An outcome with its next state, if it has one, changed by `g`. -/
def mapNext (g : State → State) : Outcome → Outcome
  | .next t => .next (g t)
  | .fault r => .fault r
  | .refused r => .refused r

section Relabel

variable (f : Nat → Nat) (k : Nat)

theorem windowOffset_move (p : Platform) (addr : Nat) :
    windowOffset { p with window := p.window + k } (addr + Config.windowSize * k) = windowOffset p addr := by
  have hbase : ({ p with window := p.window + k } : Platform).base = p.base + Config.windowSize * k :=
    Nat.mul_add Config.windowSize p.window k
  rw [windowOffset, hbase]
  simp only [Nat.add_right_comm _ (Config.windowSize * k), Nat.add_le_add_iff_right, Nat.add_lt_add_iff_right,
    Nat.add_sub_add_right]
  rfl

theorem windowOffset_relabel (a : Access) (s : State) :
    windowOffset (s.relabel f k).platform (a.relabel f k).addr = windowOffset s.platform a.addr :=
  windowOffset_move k s.platform a.addr

theorem respond_relabel (h : Nat) (r : Reply) (s : State) :
    (s.relabel f k).respond (f h) r = (s.respond h r).relabel f k := by
  simp [State.relabel, State.rename, State.move, State.respond]

theorem readRegister_relabel (r : WindowReg) (s : State) : readRegister r (s.relabel f k) = readRegister r s := by
  cases r <;> rfl

theorem afterWrite_relabel (r : WindowReg) (v : Word) (s : State) :
    (s.relabel f k).afterWrite r v = (s.afterWrite r v).relabel f k := by
  cases r <;> rfl

theorem afterAdmitted_relabel (r : WindowReg) (a : Access) (s : State) :
    (s.relabel f k).afterAdmitted r (a.relabel f k) = (s.afterAdmitted r a).relabel f k := by
  have hop : (a.relabel f k).op = a.op := rfl
  have hhost : (a.relabel f k).host = f a.host := rfl
  unfold State.afterAdmitted
  rw [hop, hhost, readRegister_relabel, respond_relabel, respond_relabel]
  cases a.op with
  | read => rfl
  | write v => exact afterWrite_relabel f k r v _

theorem raiseBusError_relabel (a : Access) (s : State) :
    raiseBusError (a.relabel f k) (s.relabel f k) = mapNext (State.relabel f k) (raiseBusError a s) := by
  have hre : (a.relabel f k).onError = a.onError := rfl
  unfold raiseBusError
  rw [hre]
  cases a.onError with
  | stops => rfl
  | goesOn => exact congrArg Host.Outcome.next (respond_relabel f k a.host .busError s)

/-- An access is answered by its offset in the window, its width and its operation, none of which changes. -/
theorem performAccess_relabel (a : Access) (s : State) :
    performAccess (a.relabel f k) (s.relabel f k) = mapNext (State.relabel f k) (performAccess a s) := by
  have hw : (a.relabel f k).width = a.width := rfl
  unfold performAccess
  rw [windowOffset_relabel, hw]
  cases windowOffset s.platform a.addr with
  | none => rfl
  | some off =>
    dsimp only
    cases selectRegister off a.width with
    | none => exact raiseBusError_relabel f k a s
    | some r =>
      simp only [performAdmitted_eq, afterAdmitted_relabel]
      rfl

/-- The answer to a cut access is free, but it depends on the counter alone. -/
theorem answerCut_relabel (a : Access) (s : State) :
    answerCut (a.relabel f k) (s.relabel f k) = (answerCut a s).relabel f k := by
  have hcuts : (s.relabel f k).cuts = s.cuts := rfl
  unfold answerCut
  rw [windowOffset_relabel, hcuts]
  cases windowOffset s.platform a.addr with
  | none => rfl
  | some off =>
    cases Config.cutReply s.cuts with
    | none => rfl
    | some r =>
      have hrespond := respond_relabel f k a.host r s
      exact congrArg (fun t : State => { t with cuts := s.cuts + 1 }) hrespond

theorem performEvent_relabel (e : BusEvent) (s : State) :
    performEvent (e.relabel f k) (s.relabel f k) = mapNext (State.relabel f k) (performEvent e s) := by
  rcases e with a | (_ | a)
  · exact performAccess_relabel f k a s
  · rfl
  · exact congrArg Host.Outcome.next (answerCut_relabel f k a s.resetRegisters)

theorem step_relabel (s : State) : step (s.relabel f k) = mapNext (State.relabel f k) (step s) := by
  cases hp : s.pending with
  | nil =>
    have hp' : (s.relabel f k).pending = [] := by simp [State.relabel, State.rename, State.move, hp]
    rw [step_nil hp, step_nil hp', mapNext]
  | cons e rest =>
    have hp' : (s.relabel f k).pending = e.relabel f k :: rest.map (BusEvent.relabel f k) := by
      simp [State.relabel, State.rename, State.move, hp, BusEvent.relabel, Function.comp_def]
    have hrest : { s.relabel f k with pending := rest.map (BusEvent.relabel f k) }
        = State.relabel f k { s with pending := rest } := by
      simp [State.relabel, State.rename, State.move, BusEvent.relabel, Function.comp_def]
    rw [step_cons hp, step_cons hp', hrest, performEvent_relabel]

end Relabel

/-! ### Each change alone -/

theorem busEvent_rename_id (e : BusEvent) : e.rename id = e := by
  rcases e with a | (_ | a) <;> rfl

theorem busEvent_move_zero (e : BusEvent) : e.move 0 = e := by
  rcases e with a | (_ | a) <;> rfl

theorem relabel_zero (f : Nat → Nat) : State.relabel f 0 = State.rename f := by
  funext s
  simp [State.relabel, State.move, State.rename, busEvent_move_zero]

theorem relabel_id (k : Nat) : State.relabel id k = State.move k := by
  funext s
  simp [State.relabel, State.move, State.rename, busEvent_rename_id]

/-- Settles O54: `step_relabel` with the window where it is. -/
theorem theFxuDoesNotKnowTheHost : Obligations.TheFxuDoesNotKnowTheHost := by
  intro f s
  have h := step_relabel f 0 s
  rw [relabel_zero] at h
  cases hstep : step s with
  | next t | fault r | refused r => rw [hstep] at h; exact h

/-- Settles O55: `step_relabel` with the hosts as they are. -/
theorem nothingDependsOnTheBaseAddress : Obligations.NothingDependsOnTheBaseAddress := by
  intro k s
  have h := step_relabel id k s
  rw [relabel_id] at h
  cases hstep : step s with
  | next t | fault r | refused r => rw [hstep] at h; exact h

end Sys2Proof.Machine
end

/-! ## Proofs: the 64-bit data paths (00_scope.md R8) -/

section

namespace Sys2Proof.Machine

/-- The low 32 bits of a signed 64-bit quotient are the narrowed quotient of the values: only -2^63 / -1 overflows 64
bits, and by a multiple of 2^64. -/
theorem sdiv_setWidth_eq_wrap32 (x y : BitVec 64) : (x.sdiv y).setWidth 32 = wrap32 (tdiv x.toInt y.toInt) := by
  rw [setWidth_eq_wrap32_toInt (by decide), BitVec.toInt_sdiv, ← BitVec.toInt_ofInt, wrap32_ofInt_toInt (by decide),
    tdiv]

/-- Settles O9: the 64-bit product and the scale are exact. -/
theorem multiplierDatapathComputesMultFp : Obligations.MultiplierDatapathComputesMultFp := by
  intro a b
  rw [multFp64, sdiv_setWidth_eq_wrap32, product64_toInt, scale64_toInt, multFp]

/-- Settles O10: the 64-bit scaled dividend and the sign-extended divisor are exact. -/
theorem dividerDatapathComputesDivFp : Obligations.DividerDatapathComputesDivFp := by
  intro a b _
  rw [divFp64, sdiv_setWidth_eq_wrap32, scaledDividend64_toInt, sext64_toInt, divFp]

end Sys2Proof.Machine
end

/-! ## Proofs: sample words and the language of host programs (30_encoding.md section 5) -/

section

namespace Sys2Proof.Machine

/-- Settles O4: eleven words, each decoded by evaluation. -/
theorem sampleWordsDecode : Obligations.SampleWordsDecode := by
  unfold Obligations.SampleWordsDecode
  decide

/-- Settles O58: each expansion is its equation, that of FX under the shape of its mnemonic. -/
theorem pseudoInstructionsExpand : Obligations.PseudoInstructionsExpand := fun _ _ _ _ =>
  ⟨rfl, fun hu => by simp [AsmStmt.expand, hu], fun hu => by simp [AsmStmt.expand, hu], rfl, rfl, rfl⟩

/-! ### Literals (R59) -/

/-- An integer narrowed if it is in `i32`, and else refused, is read exactly. -/
theorem wrap32_of_inI32_eq_some {v : Int} {w : Word} :
    (inI32 v = true ∧ wrap32 v = w) ↔ w.toInt = v := by
  constructor
  · rintro ⟨hv, rfl⟩
    exact wrap32_toInt_eq_iff.mpr (of_decide_eq_true hv)
  · rintro rfl
    exact ⟨decide_eq_true (word_toInt_bounds w), wrap32_toInt_self w⟩

theorem eval_dec_eq_some {vars : HostVars} {n : Int} {w : Word} :
    (AsmValue.dec n).eval vars = some w ↔ w.toInt = n := by
  rw [AsmValue.eval, Option.ite_none_right_eq_some, Option.some.injEq, wrap32_of_inI32_eq_some]

/-- The scaled literal is an integer exactly when the division by 10^places leaves no remainder. -/
theorem eval_fx_eq_some {vars : HostVars} {digits : Int} {places : Nat} {w : Word} :
    (AsmValue.fx digits places).eval vars = some w ↔ w.toInt * 10 ^ places = digits * 16384 := by
  have hpos : (10 : Int) ^ places ≠ 0 := by positivity
  rw [AsmValue.eval, Option.ite_none_right_eq_some, Option.some.injEq, and_assoc, wrap32_of_inI32_eq_some]
  constructor
  · rintro ⟨hrem, hw⟩
    rw [hw]
    exact Int.ediv_mul_cancel (Int.dvd_of_emod_eq_zero hrem)
  · intro h
    rw [Config.scale, ← h]
    exact ⟨Int.mul_emod_left _ _, (Int.mul_ediv_cancel _ hpos).symm⟩

/-- Settles O59: a decimal integer is its own candidate for a word, an `fx` literal its exact quotient. -/
theorem literalsAreNeverRounded : Obligations.LiteralsAreNeverRounded :=
  fun _ _ _ _ _ => ⟨eval_dec_eq_some, eval_fx_eq_some⟩

/-! ### The text of a transaction (R61) -/

theorem hexDigit_inj {n m : Nat} (hn : n < 16) (hm : m < 16) (h : hexDigit n = hexDigit m) : n = m := by
  have hall : ∀ i j : Fin 16, hexDigit i = hexDigit j → i = j := by decide
  exact congrArg Fin.val (hall ⟨n, hn⟩ ⟨m, hm⟩ h)

@[simp] theorem hexDigits_length (digits n : Nat) : (hexDigits digits n).length = digits := by
  induction digits generalizing n with
  | zero => rfl
  | succ digits ih => simp [hexDigits, ih]

/-- Numbers that fit are told apart by their digits: by the last one and by those before it. -/
theorem hexDigits_inj {digits n m : Nat} (hn : n < 16 ^ digits) (hm : m < 16 ^ digits)
    (h : hexDigits digits n = hexDigits digits m) : n = m := by
  induction digits generalizing n m with
  | zero => omega
  | succ digits ih =>
    obtain ⟨hhigh, hlow⟩ := List.append_inj' h rfl
    have hdiv : n / 16 = m / 16 := ih (by omega) (by omega) hhigh
    have hmod : n % 16 = m % 16 := hexDigit_inj (by omega) (by omega) (List.singleton_inj.mp hlow)
    omega

theorem hexDigits_two_inj {off off' : Nat} (ho : off < 32) (ho' : off' < 32)
    (h : hexDigits 2 off = hexDigits 2 off') : off = off' :=
  hexDigits_inj (by omega) (by omega) h

theorem hexDigits_eight_inj {v v' : Word} (h : hexDigits 8 v.toNat = hexDigits 8 v'.toNat) : v = v' :=
  BitVec.eq_of_toNat_eq (hexDigits_inj v.isLt v'.isLt h)

/-- Two writes in the window with one text are one write: the text is cut at its fixed widths. -/
theorem text_write_inj {off off' : Nat} {v v' : Word} (ho : off < 32) (ho' : off' < 32)
    (h : (Transaction.write off v).text = (Transaction.write off' v').text) : off = off' ∧ v = v' := by
  obtain ⟨hfront, hdata⟩ := List.append_inj' h (by simp)
  obtain ⟨hoff, -⟩ := List.append_inj' hfront rfl
  exact ⟨hexDigits_two_inj ho ho' (List.append_inj_right hoff rfl), hexDigits_eight_inj hdata⟩

theorem text_read_inj {off off' : Nat} (ho : off < 32) (ho' : off' < 32)
    (h : (Transaction.read off).text = (Transaction.read off').text) : off = off' :=
  hexDigits_two_inj ho ho' (List.append_inj_right h rfl)

theorem text_write_ne_read (off off' : Nat) (v : Word) :
    (Transaction.write off v).text ≠ (Transaction.read off').text := by
  simp [Transaction.text]

/-- Settles O60: the example by evaluation; the first letter tells the two kinds apart, and the digits the rest. -/
theorem transactionTextIsFaithful : Obligations.TransactionTextIsFaithful := by
  refine ⟨fun _ _ => rfl, fun t u htw htr huw hur h => ?_⟩
  cases t with
  | write off v =>
    cases u with
    | write off' v' =>
      obtain ⟨rfl, rfl⟩ := text_write_inj (htw off v rfl) (huw off' v' rfl) h
      rfl
    | read off' => exact absurd h (text_write_ne_read off off' v)
  | read off =>
    cases u with
    | write off' v' => exact absurd h.symm (text_write_ne_read off' off v')
    | read off' => rw [text_read_inj (htr off rfl) (hur off' rfl) h]

end Sys2Proof.Machine
end
